-- ==== Sys2Proof/Word.lean ====
section
/-! DEFINITION. The fixed-width words of HUFF1 and its bit strings (spec/00_scope.md R5, R6, R7). -/

namespace Sys2Proof

/-- A bus word, a register or a tree weight: 32 bits (R5). -/
abbrev Word := BitVec 32

/-- An artifact byte: 8 bits (R41). -/
abbrev Byte := BitVec 8

/-- A host bus byte address: 22 bits (R5, R61). -/
abbrev Addr := BitVec 22

/-- A symbol, in the 10 bits of the NODE word's SYMBOL field (R38). A machine with `SYM_W < 10` holds only
symbols below `2^SYM_W` (R64). -/
abbrev Symbol := BitVec 10

/-- A node index: 11 bits (R5). -/
abbrev NodeIdx := BitVec 11

/-- A bit string in stream order, first bit first (R7). -/
abbrev Bits := List Bool

end Sys2Proof
end

