-- ==== Sys2Proof/Config.lean ====
section
/-! DEFINITION. The implementation parameters of HUFF1 (spec/00_scope.md R4), the tree node type of R38, and the
free values: constants without a body, of which nothing can be computed or proved (spec/93_implementation_defined.md
U1, U2, U3, U5). -/

namespace Sys2Proof

/-- The parameters of one HUFF1 (R4). A machine's parameters never change; the PARAM registers of R23 show them. -/
structure Params where
  /-- `SYM_W`: width of a symbol in bits. -/
  symW : Nat
  /-- `FREQ_W`: width of a frequency count in bits. -/
  freqW : Nat
  /-- `TEXT_CAP`: capacity of the TEXT buffer in symbols. -/
  textCap : Nat
  /-- `ART_CAP`: capacity of the ART buffer in bytes. -/
  artCap : Nat
  /-- `DTEXT_CAP`: capacity of the DTEXT buffer in symbols. -/
  dtextCap : Nat
  deriving DecidableEq, Repr

/-- `NSYM = 2^SYM_W`, the number of symbol values (R4). -/
def Params.nsym (P : Params) : Nat := 2 ^ P.symW

/-- `NODE_MAX = 2*NSYM - 1`, the number of NODE entries (R4). -/
def Params.nodeMax (P : Params) : Nat := 2 * P.nsym - 1

/-- `MAX_CODE_LEN = max(1, NSYM - 1)`, the longest code the CODE table can hold (R4). -/
def Params.maxCodeLen (P : Params) : Nat := max 1 (P.nsym - 1)

/-- The suggested parameters of R4 ("the spec's suggestion, not a claim about any device"). -/
def Params.default : Params :=
  { symW := 8, freqW := 24, textCap := 65536, artCap := 65536, dtextCap := 65536 }

/-- One entry of the NODE table (R38): a leaf of weight `w` and symbol `s`, or an internal node of weight `w` with
children `l` and `r`. No entry has exactly one child. -/
inductive Node where
  | leaf (w : Word) (s : Symbol)
  | internal (w : Word) (l r : NodeIdx)
  deriving DecidableEq, Repr, Inhabited

/-- Free value (U1): the contents of FREQ entry `i` that draw number `d` covers and nothing has written since. -/
opaque Config.freeFreq : Nat → Nat → Word

/-- Free value (U1): the contents of TEXT entry `i` that draw number `d` covers and nothing has written since. -/
opaque Config.freeText : Nat → Nat → Symbol

/-- Free value (U1, U3): the contents of ART entry `k` that draw number `d` covers and nothing has written since. -/
opaque Config.freeArt : Nat → Nat → Byte

/-- Free value (U1): the contents of NODE entry `n` that draw number `d` covers and nothing has written since. -/
opaque Config.freeNode : Nat → Nat → Node

/-- Free value (U1): the contents of CODE entry `s` that draw number `d` covers and nothing has written since. -/
opaque Config.freeCode : Nat → Nat → Bits

/-- Free value (U1, U5): the contents of DTEXT entry `i` that draw number `d` covers and nothing has written since. -/
opaque Config.freeDtext : Nat → Nat → Symbol

/-- Free value (U2): what the host bus answers to the read of draw number `d`, taken while BUSY = 1. -/
opaque Config.freeBus : Nat → Word

end Sys2Proof
end

