-- ==== Sys2Proof/Syntax.lean ====
section
/-! DEFINITION. The HUFF1 command set, version 1: one constructor per row of spec/opcode_table.json
(spec/30_encoding.md R91). No command has an operand field (R92). -/

namespace Sys2Proof

/-- The eight commands (R91). Every operand is a fixed register or table (R92). -/
inductive Instr where
  /-- NOP (R113). -/
  | nop
  /-- CLEAR, the soft reset (R115). -/
  | clear
  /-- CLRERR, the error acknowledge (R117). -/
  | clrerr
  /-- CLRFREQ, which empties the FrequencyMap (R118). -/
  | clrfreq
  /-- BUILD_TREE (R133). -/
  | buildTree
  /-- GEN_TABLE (R150). -/
  | genTable
  /-- ENCODE (R190). -/
  | encode
  /-- DECODE (R210). -/
  | decode
  deriving DecidableEq, Repr

end Sys2Proof
end

