-- ==== Sys2Proof/WellFormed.lean ====
section
/-! DEFINITION. What is checked before a machine and a command make sense: the legal parameter values of
spec/00_scope.md R4. A command has no operand, so every command is well-formed (spec/30_encoding.md R92). -/

namespace Sys2Proof

/-- `SYM_W` is 1 to 10 (R4). -/
def Params.symWOk (P : Params) : Bool := 1 ≤ P.symW && P.symW ≤ 10

/-- `FREQ_W` is 1 to `32 - SYM_W` (R4, R5). -/
def Params.freqWOk (P : Params) : Bool := 1 ≤ P.freqW && P.freqW + P.symW ≤ 32

/-- `TEXT_CAP` is 1 to 262144 (R4). -/
def Params.textCapOk (P : Params) : Bool := 1 ≤ P.textCap && P.textCap ≤ 262144

/-- `ART_CAP` is 2 to 262144 (R4). -/
def Params.artCapOk (P : Params) : Bool := 2 ≤ P.artCap && P.artCap ≤ 262144

/-- `DTEXT_CAP` is 1 to 262144 (R4). -/
def Params.dtextCapOk (P : Params) : Bool := 1 ≤ P.dtextCap && P.dtextCap ≤ 262144

/-- The parameter values R4 allows. -/
def Params.legal (P : Params) : Bool :=
  P.symWOk && P.freqWOk && P.textCapOk && P.artCapOk && P.dtextCapOk

/-- Every command is well-formed: "No command has an operand field, an immediate or a register number" (R92). -/
def Instr.wellFormed : Instr → Bool
  | .nop => true
  | .clear => true
  | .clrerr => true
  | .clrfreq => true
  | .buildTree => true
  | .genTable => true
  | .encode => true
  | .decode => true

end Sys2Proof
end

