-- ==== Sys2Proof/Decode.lean ====
section
/-! DEFINITION. Command decoding and encoding (spec/30_encoding.md R90 to R95). One format, C: OP in bits [31:24],
RSVD in bits [23:0], which must be 0. -/

namespace Sys2Proof

/-- Why a command word is ILLEGAL (R93, R94). The core answers both with the error ILLEGAL_CMD (R114). -/
inductive Illegal where
  /-- RSVD is not 0. -/
  | rsvdNonZero
  /-- OP is not in the opcode map. -/
  | opReserved
  deriving DecidableEq, Repr

/-- The field OP, bits [31:24] (R90). -/
def opField (v : Word) : BitVec 8 := v.extractLsb' 24 8

/-- The field RSVD, bits [23:0] (R90). -/
def rsvdField (v : Word) : BitVec 24 := v.extractLsb' 0 24

/-- The opcode map read from OP to command (R91, R93). -/
def decodeOp (op : Nat) : Except Illegal Instr :=
  match op with
  | 0x00 => .ok .nop
  | 0x01 => .ok .clear
  | 0x02 => .ok .clrerr
  | 0x03 => .ok .clrfreq
  | 0x10 => .ok .buildTree
  | 0x11 => .ok .genTable
  | 0x20 => .ok .encode
  | 0x30 => .ok .decode
  | _ => .error .opReserved

/-- `decode(v)` of R93: RSVD is checked before OP. -/
def decode (v : Word) : Except Illegal Instr :=
  if rsvdField v ≠ 0 then .error .rsvdNonZero else decodeOp (opField v).toNat

/-- The opcode map read from command to OP (R91). -/
def opOf : Instr → BitVec 8
  | .nop => 0x00
  | .clear => 0x01
  | .clrerr => 0x02
  | .clrfreq => 0x03
  | .buildTree => 0x10
  | .genTable => 0x11
  | .encode => 0x20
  | .decode => 0x30

/-- The command word of a command: OP, then 24 zero bits (R90). -/
def encode (i : Instr) : Word := opOf i ++ (0 : BitVec 24)

/-- What the decoder reads from an opcode-table word: a command is exactly one 32-bit word (R90), so the bits above
`nbits` are 0. -/
def decodeTableWord (nbits w : Nat) : Option Instr :=
  match decode (BitVec.ofNat 32 (w % 2 ^ nbits)) with
  | .ok i => some i
  | .error _ => none

end Sys2Proof
end

