-- ==== Sys2Proof/Machine/State.lean ====
section
/-! DEFINITION. The state of HUFF1 as plain data (spec/10_state.md R22 to R43), with the two agents' schedule beside
it (spec/20_memory.md R60, R75), the reasons a step can stop, and the state after reset (spec/70_reset_and_hazards.md
R260, R261). -/

namespace Sys2Proof.Machine

/-- TREE_STATE (R25): NONE = 0, EMPTY = 1, BUILT = 2. The value 3 is never held (U8). -/
inductive TreeState where
  | none
  | empty
  | built
  deriving DecidableEq, Repr

/-- TABLE_STATE (R25): NONE = 0, EMPTY = 1, READY = 2. The value 3 is never held (U8). -/
inductive TableState where
  | none
  | empty
  | ready
  deriving DecidableEq, Repr

/-- The error kinds of R230. -/
inductive ErrorCode where
  | illegalCmd
  | noTree
  | noTable
  | badLen
  | missingCode
  | artOverflow
  | corruptHeader
  | corruptMatch
  | dtextOverflow
  deriving DecidableEq, Repr

/-- What `raise E(info)` carries: an error and its information word (R9, R233). -/
structure Failure where
  code : ErrorCode
  info : Word
  deriving DecidableEq, Repr

/-- One table of R37 to R42: the entries written since the contents were last unspecified, by rising index. An
unlisted entry holds no written value; it reads as the free value that draw number `epoch` covers (U1, U3, U5). -/
structure Table (α : Type) where
  epoch : Nat
  cells : List (Nat × α)
  deriving DecidableEq, Repr

/-- The six tables (R22, R37 to R42). A FREQ entry's `FREQ_W` bits stand in a 32-bit word and a symbol's `SYM_W` bits
in 10, zero-extended (R64). A CODE entry is `CBITS[s]`; `CLEN[s]` is its length (R39). -/
structure Memory where
  freq : Table Word
  node : Table Node
  code : Table Bits
  text : Table Symbol
  art : Table Byte
  dtext : Table Symbol
  deriving DecidableEq, Repr

/-- One scheduled move (R75): a host access, a poll loop of the host, the core's turn, or the reset input. -/
inductive Move where
  /-- `W addr, value`: `MemWrite(addr, 4, value)` (R67, R97). -/
  | write (a : Addr) (v : Word)
  /-- `R addr`: `MemRead(addr, 4)` (R66, R97). -/
  | read (a : Addr)
  /-- `R addr == value`: a read whose value the host program asserts (R97). -/
  | check (a : Addr) (v : Word)
  /-- `WAIT`: read STATUS until bit 0 is 0 (R97). -/
  | wait
  /-- The core's turn: it executes the latched command, if there is one (R111). -/
  | core
  /-- The reset input is asserted and released (R260). -/
  | reset
  deriving DecidableEq, Repr

/-- Why a step ends in a fault. HUFF1 has none: "the core never hangs and never raises anything else" (R79), no host
access faults (R61, R239), and a command that fails completes with an error code (R233). So nobody raises one, and the
type has no constructor: safe, because the spec names no stop that is left out. -/
inductive Fault where
  deriving DecidableEq, Repr

/-- Why a step ends in a refusal. -/
inductive Refusal where
  /-- Raised by an arm of `exec` whose command has no meaning yet. Safe: the machine stops where the hardware goes on.
  No arm raises it: every command has its meaning. -/
  | notModelled (mnemonic : String)
  deriving DecidableEq, Repr

/-- The state: the registers of R23 to R36, the six tables, CMD_LATCH (R43), and, after it, the model's own fields for
the host and the schedule. STATUS.BUSY is not stored: it is 1 exactly when CMD_LATCH is full (R43). -/
structure State where
  /-- What PARAM0, PARAM_TEXT_CAP, PARAM_ART_CAP and PARAM_DTEXT_CAP hold (R23): fixed for the machine. -/
  params : Params
  /-- STATUS.ERR, sticky (R24). -/
  err : Bool
  /-- STATUS.OVERRUN, sticky (R24). -/
  overrun : Bool
  /-- STATUS.TREE_STATE (R24, R25). -/
  treeState : TreeState
  /-- STATUS.TABLE_STATE (R24, R25). -/
  tableState : TableState
  /-- RESULT, 8 bits (R27). -/
  result : BitVec 8
  /-- ERR_INFO, 32 bits (R28). -/
  errInfo : Word
  /-- TEXT_LEN, 32 bits (R29). -/
  textLen : Word
  /-- ART_LEN, 32 bits (R30). -/
  artLen : Word
  /-- DTEXT_LEN, 32 bits (R31). -/
  dtextLen : Word
  /-- RAW_BITS, 32 bits (R32). -/
  rawBits : Word
  /-- PAD, 4 bits (R33). -/
  pad : BitVec 4
  /-- LEAVES, 11 bits (R34). -/
  leaves : BitVec 11
  /-- NODE_COUNT, 12 bits (R35). -/
  nodeCount : BitVec 12
  /-- ROOT, 11 bits (R36). -/
  root : NodeIdx
  /-- FREQ, NODE, CODE, TEXT, ART and DTEXT (R37 to R42). -/
  mem : Memory
  /-- CMD_LATCH: empty or one command word (R43). -/
  cmdLatch : Option Word
  /-- MODEL'S OWN: the moves still to come, in order (R75). When it is empty the core has the turn. -/
  agenda : List Move
  /-- MODEL'S OWN: what the host's reads returned, newest first. -/
  busLog : List Word
  /-- MODEL'S OWN: no `R addr == value` of the host program has failed (R97). -/
  checksOk : Bool
  /-- MODEL'S OWN: the number of the next free draw (U1, U2, U3, U5). -/
  draws : Nat
  deriving DecidableEq, Repr

/-- A table of which nothing is known but that draw number `d` covers it. -/
def Table.unwritten {α : Type} (d : Nat) : Table α := { epoch := d, cells := [] }

/-- Table contents after reset: unspecified in all six tables (R261). -/
def Memory.unwritten (d : Nat) : Memory :=
  { freq := Table.unwritten d, node := Table.unwritten d, code := Table.unwritten d,
    text := Table.unwritten d, art := Table.unwritten d, dtext := Table.unwritten d }

/-- A HUFF1 with the parameters `P` right after reset (R260, R261): every register at its reset value, CMD_LATCH empty,
the tables covered by draw 0. No move is scheduled and the host has read nothing. -/
def State.resetWith (P : Params) : State :=
  { params := P
    err := false, overrun := false, treeState := .none, tableState := .none
    result := 0, errInfo := 0
    textLen := 0, artLen := 0, dtextLen := 0
    rawBits := 0, pad := 0
    leaves := 0, nodeCount := 0, root := 0
    mem := Memory.unwritten 0
    cmdLatch := none
    agenda := [], busLog := [], checksOk := true, draws := 1 }

/-- The state after reset of a HUFF1 with the suggested parameters of R4. -/
def State.reset : State := State.resetWith Params.default

end Sys2Proof.Machine
end

