-- ==== Sys2Proof/Machine/Flags.lean ====
section
/-! DEFINITION. The status fields and the error codes as the bits software sees: STATUS (spec/10_state.md R24, R25)
and RESULT (spec/60_exceptions.md R230). -/

namespace Sys2Proof.Machine

/-- STATUS.BUSY: 1 exactly when CMD_LATCH is full (R43). -/
def State.busy (s : State) : Bool := s.cmdLatch.isSome

/-- The two bits of TREE_STATE (R25). -/
def TreeState.bits : TreeState → BitVec 2
  | .none => 0
  | .empty => 1
  | .built => 2

/-- The two bits of TABLE_STATE (R25). -/
def TableState.bits : TableState → BitVec 2
  | .none => 0
  | .empty => 1
  | .ready => 2

/-- STATUS (R24): BUSY [0], ERR [1], OVERRUN [2], TREE_STATE [5:4], TABLE_STATE [7:6], the other bits 0. -/
def State.statusWord (s : State) : Word :=
  (0 : BitVec 24) ++ s.tableState.bits ++ s.treeState.bits ++ (0 : BitVec 1)
    ++ BitVec.ofBool s.overrun ++ BitVec.ofBool s.err ++ BitVec.ofBool s.busy

/-- The RESULT code of each error (R230). Code 0 is OK. -/
def ErrorCode.code : ErrorCode → BitVec 8
  | .illegalCmd => 0x01
  | .noTree => 0x02
  | .noTable => 0x03
  | .badLen => 0x04
  | .missingCode => 0x05
  | .artOverflow => 0x06
  | .corruptHeader => 0x07
  | .corruptMatch => 0x08
  | .dtextOverflow => 0x09

/-- ERR_INFO of CORRUPT_HEADER (R176, R230): the header value in bits [15:8], the subcause in bits [7:0]. -/
def headerInfo (h : Byte) (subcause : Byte) : Word := (0 : BitVec 16) ++ h ++ subcause

/-- ERR_INFO of a residual CORRUPT_MATCH (R213, R230): bit 31, and the payload length in bits [30:0]. -/
def residualInfo (payloadLen : Nat) : Word := 0x80000000#32 ||| BitVec.ofNat 32 payloadLen

end Sys2Proof.Machine
end

