-- ==== Sys2Proof/Machine/Ops.lean ====
section
/-! DEFINITION. The operations over tables and registers that the commands share: reading and writing a table entry,
truncation on a write (spec/20_memory.md R64), completion (spec/40_control.md R112) and error entry
(spec/60_exceptions.md R233). -/

namespace Sys2Proof.Machine

/-- The value listed for index `i`, if there is one. -/
def lookupCell {α : Type} (i : Nat) : List (Nat × α) → Option α
  | [] => none
  | (j, v) :: rest => if i = j then some v else lookupCell i rest

/-- List `v` for index `i`, in place of what was listed for `i`, keeping the indices rising. -/
def insertCell {α : Type} (i : Nat) (v : α) : List (Nat × α) → List (Nat × α)
  | [] => [(i, v)]
  | (j, w) :: rest =>
    if i < j then (i, v) :: (j, w) :: rest
    else if i = j then (i, v) :: rest
    else (j, w) :: insertCell i v rest

/-- What has been written to entry `i`, if anything has. -/
def Table.read {α : Type} (t : Table α) (i : Nat) : Option α := lookupCell i t.cells

/-- `TABLE[i] <- v` (R9). -/
def Table.write {α : Type} (t : Table α) (i : Nat) (v : α) : Table α :=
  { t with cells := insertCell i v t.cells }

/-- `TABLE[k] <- v0; TABLE[k+1] <- v1; ...` for the values of a list, in order. -/
def Table.writeList {α : Type} (t : Table α) (k : Nat) : List α → Table α
  | [] => t
  | v :: vs => (t.write k v).writeList (k + 1) vs

/-- `for i in 0..n-1: TABLE[i] <- v`. -/
def Table.fill {α : Type} (t : Table α) (n : Nat) (v : α) : Table α := t.writeList 0 (List.replicate n v)

/-- The canonical form of a table: the listed indices strictly rise, so that each entry is listed at most once. (No
condition on the values: an unlisted entry holds no written value, so no listed value equals it.) -/
abbrev Table.wf {α : Type} (t : Table α) : Prop := (t.cells.map Prod.fst).Pairwise (· < ·)

/-- The canonical form of the whole memory. -/
abbrev Memory.wf (m : Memory) : Prop :=
  m.freq.wf ∧ m.node.wf ∧ m.code.wf ∧ m.text.wf ∧ m.art.wf ∧ m.dtext.wf

/-- `trunc_n(v)` of R6, kept in the word's own width. -/
def truncTo {w : Nat} (n : Nat) (v : BitVec w) : BitVec w := BitVec.ofNat w (v.toNat % 2 ^ n)

/-- Completion (R112): RESULT, ERR_INFO and the sticky STATUS.ERR are written and the command leaves CMD_LATCH, which
makes BUSY 0. "No other state changes at completion." -/
def State.finish (code : BitVec 8) (info : Word) (s : State) : State :=
  { s with
    result := code
    errInfo := info
    err := s.err || code != 0
    cmdLatch := none }

/-- `complete()`: the command ends with success (R112). -/
def State.complete (s : State) : State := s.finish 0 0

/-- `raise E(info)`: the command ends with an error (R112, R233). The command's own error effects, where it has any
(R193, R216), are already in `s`. There is no handler and no return from an error (R234). -/
def State.raise (f : Failure) (s : State) : State := s.finish f.code.code f.info

/-- The error effects of ENCODE (R193): ART_LEN, RAW_BITS and PAD become 0. -/
def State.encodeErrorEffects (s : State) : State := { s with artLen := 0, rawBits := 0, pad := 0 }

/-- Every ART entry becomes unspecified (R193, U3): a fresh draw covers all of ART. -/
def State.forgetArt (s : State) : State :=
  { s with mem := { s.mem with art := Table.unwritten s.draws }, draws := s.draws + 1 }

/-- The error effects of DECODE (R216): DTEXT_LEN, RAW_BITS and PAD become 0, and the stored DTEXT contents are
unspecified (U5): a fresh draw covers all of DTEXT. -/
def State.decodeErrorEffects (s : State) : State :=
  { s with
    dtextLen := 0, rawBits := 0, pad := 0
    mem := { s.mem with dtext := Table.unwritten s.draws }
    draws := s.draws + 1 }

end Sys2Proof.Machine
end

