-- ==== Sys2Proof/Machine/Operands.lean ====
section
/-! DEFINITION. The operands of the commands. Every operand is implicit: a register or a table entry
(spec/30_encoding.md R92). A table entry that holds no written value reads as a free value of the entry's width
(spec/93_implementation_defined.md U1, U3, U5). -/

namespace Sys2Proof.Machine

/-- `FREQ[i]`, `FREQ_W` bits (R37). -/
def State.freqAt (s : State) (i : Nat) : Word :=
  match s.mem.freq.read i with
  | some v => v
  | none => truncTo s.params.freqW (Config.freeFreq s.mem.freq.epoch i)

/-- `TEXT[i]`, `SYM_W` bits (R40). -/
def State.textAt (s : State) (i : Nat) : Symbol :=
  match s.mem.text.read i with
  | some v => v
  | none => truncTo s.params.symW (Config.freeText s.mem.text.epoch i)

/-- `ART[k]`, 8 bits (R41). -/
def State.artAt (s : State) (k : Nat) : Byte :=
  match s.mem.art.read k with
  | some v => v
  | none => Config.freeArt s.mem.art.epoch k

/-- `NODE[n]` (R38). -/
def State.nodeAt (s : State) (n : Nat) : Node :=
  match s.mem.node.read n with
  | some v => v
  | none => Config.freeNode s.mem.node.epoch n

/-- `CBITS[i]` (R39), at most `MAX_CODE_LEN` bits. -/
def State.codeAt (s : State) (i : Nat) : Bits :=
  match s.mem.code.read i with
  | some v => v
  | none => (Config.freeCode s.mem.code.epoch i).take s.params.maxCodeLen

/-- `CLEN[i]`, the length of `CBITS[i]` (R39). -/
def State.clen (s : State) (i : Nat) : Nat := (s.codeAt i).length

/-- `DTEXT[i]`, `SYM_W` bits (R42). -/
def State.dtextAt (s : State) (i : Nat) : Symbol :=
  match s.mem.dtext.read i with
  | some v => v
  | none => truncTo s.params.symW (Config.freeDtext s.mem.dtext.epoch i)

/-- `ART[0], ..., ART[m-1]` (R176). -/
def State.artBytes (s : State) (m : Nat) : List Byte := (List.range m).map s.artAt

/-- `WEIGHT(n)` (R38). -/
def nodeWeight : Node → Word
  | .leaf w _ => w
  | .internal w _ _ => w

/-- The field LEAF of a node: 1 for a leaf (R38). -/
def nodeIsLeaf : Node → Bool
  | .leaf _ _ => true
  | .internal _ _ _ => false

/-- The field SYMBOL of a node: 0 for an internal node (R38). -/
def nodeSymbol : Node → Symbol
  | .leaf _ s => s
  | .internal _ _ _ => 0

/-- The field LEFT of a node: 0 for a leaf (R38). -/
def nodeLeft : Node → NodeIdx
  | .leaf _ _ => 0
  | .internal _ l _ => l

/-- The field RIGHT of a node: 0 for a leaf (R38). -/
def nodeRight : Node → NodeIdx
  | .leaf _ _ => 0
  | .internal _ _ r => r

end Sys2Proof.Machine
end

