-- ==== Sys2Proof/Machine/Padding.lean ====
section
/-! DEFINITION. The conversions between numbers and bit strings (spec/00_scope.md R8) and the padding header processor
(spec/43_padding_header.md R170 to R178). Stream order is most significant bit first (R170). -/

namespace Sys2Proof.Machine

/-- `ubin8(v)`: the 8 bits of `v`, most significant first (R8). -/
def ubin8 (v : Byte) : Bits := (List.range 8).map fun i => v.getLsbD (7 - i)

/-- The number a bit string writes in binary, most significant bit first. -/
def bitsToNat (S : Bits) : Nat := S.foldl (fun n b => 2 * n + b.toNat) 0

/-- `uint(S)` for a string of 8 bits (R8). -/
def uint (S : Bits) : Byte := BitVec.ofNat 8 (bitsToNat S)

/-- `pack8(S)`: byte `k` is `uint(S[8k..8k+8))` (R8). -/
def pack8 (S : Bits) : List Byte :=
  (List.range (S.length / 8)).map fun k => uint ((S.drop (8 * k)).take 8)

/-- `unpack8(B)` (R8). -/
def unpack8 (B : List Byte) : Bits := B.flatMap ubin8

/-- `PadCount(n) = 8 - (n mod 8)` (R172). -/
def padCount (n : Nat) : Nat := 8 - n % 8

/-- The padded stream: header, raw bits, `pad` zero bits (R172, R173). -/
def paddedStream (raw : Bits) : Bits :=
  ubin8 (BitVec.ofNat 8 (padCount raw.length)) ++ raw ++ List.replicate (padCount raw.length) false

/-- `Pack(raw)` (R173). -/
def pack (raw : Bits) : List Byte := pack8 (paddedStream raw)

/-- `Unpack(ART, m)` on the artifact's `m` bytes (R176): the header value and the payload, or CORRUPT_HEADER. Header 0
is accepted (R177) and the filler bits are not read (R178). -/
def unpack (B : List Byte) : Except Failure (Byte × Bits) :=
  match B with
  | [] => .error { code := .corruptHeader, info := 0 }
  | h :: rest =>
    let m := (h :: rest).length
    if 8 < h.toNat then .error { code := .corruptHeader, info := headerInfo h 0x01 }
    else if 8 * m < 8 + h.toNat then .error { code := .corruptHeader, info := headerInfo h 0x02 }
    else .ok (h, ((unpack8 (h :: rest)).drop 8).take (8 * m - h.toNat - 8))

end Sys2Proof.Machine
end

