-- ==== Sys2Proof/Machine/Bus.lean ====
section
/-! DEFINITION. The host bus (spec/20_memory.md R61 to R73): the address map, host reads and host writes, while BUSY = 0
and while BUSY = 1, and the reset input (spec/70_reset_and_hazards.md R260 to R262). -/

namespace Sys2Proof.Machine

/-- The registers of the register block (R63). -/
inductive Reg where
  | id
  | param0
  | paramTextCap
  | paramArtCap
  | paramDtextCap
  | cmd
  | status
  | result
  | errInfo
  | textLen
  | artLen
  | dtextLen
  | rawBits
  | pad
  | leaves
  | nodeCount
  | root
  deriving DecidableEq, Repr

/-- What a word of the address space is (R62). -/
inductive Target where
  | reg (r : Reg)
  | freq (s : Nat)
  | node (n w : Nat)
  | code (s k : Nat)
  | text (i : Nat)
  | art (k : Nat)
  | dtext (i : Nat)
  | unmapped
  deriving DecidableEq, Repr

/-- The register at a byte offset of the register block (R63). -/
def regAt (offset : Nat) : Option Reg :=
  match offset with
  | 0x000 => some .id
  | 0x004 => some .param0
  | 0x008 => some .paramTextCap
  | 0x00C => some .paramArtCap
  | 0x010 => some .paramDtextCap
  | 0x020 => some .cmd
  | 0x024 => some .status
  | 0x028 => some .result
  | 0x02C => some .errInfo
  | 0x030 => some .textLen
  | 0x034 => some .artLen
  | 0x038 => some .dtextLen
  | 0x03C => some .rawBits
  | 0x040 => some .pad
  | 0x044 => some .leaves
  | 0x048 => some .nodeCount
  | 0x04C => some .root
  | _ => none

/-- The word address an access to `a` goes to: `a[21:2] * 4` (R61). -/
def wordAddr (a : Addr) : Nat := a.toNat / 4 * 4

/-- A register offset's target. -/
def regTarget (offset : Nat) : Target :=
  match regAt offset with
  | some r => .reg r
  | none => .unmapped

/-- A table entry's target when its index is below the window's bound; else the address is unmapped (R62). -/
def boundedTarget (i bound : Nat) (t : Target) : Target := if i < bound then t else .unmapped

/-- The address map (R62) at the word address `x`. -/
def targetOfWord (P : Params) (x : Nat) : Target :=
  if x < 0x001000 then regTarget x
  else if x < 0x002000 then
    boundedTarget ((x - 0x001000) / 4) P.nsym (.freq ((x - 0x001000) / 4))
  else if x < 0x010000 then .unmapped
  else if x < 0x018000 then
    boundedTarget ((x - 0x010000) / 16) P.nodeMax
      (.node ((x - 0x010000) / 16) ((x - 0x010000) % 16 / 4))
  else if x < 0x040000 then .unmapped
  else if x < 0x080000 then
    boundedTarget ((x - 0x040000) / 256) P.nsym
      (.code ((x - 0x040000) / 256) ((x - 0x040000) % 256 / 4))
  else if x < 0x100000 then .unmapped
  else if x < 0x200000 then
    boundedTarget ((x - 0x100000) / 4) P.textCap (.text ((x - 0x100000) / 4))
  else if x < 0x300000 then
    boundedTarget ((x - 0x200000) / 4) P.artCap (.art ((x - 0x200000) / 4))
  else if x < 0x400000 then
    boundedTarget ((x - 0x300000) / 4) P.dtextCap (.dtext ((x - 0x300000) / 4))
  else .unmapped

/-- `target(a)` of R66 and R67: address bits [1:0] are ignored (R61). -/
def target (P : Params) (a : Addr) : Target := targetOfWord P (wordAddr a)

/-- The constant of the ID register (R23). -/
def idValue : Word := 0x48554631#32

/-- PARAM0 (R23): SYM_W in [3:0], FREQ_W in [12:8]. -/
def param0Value (P : Params) : Word :=
  (0 : BitVec 19) ++ BitVec.ofNat 5 P.freqW ++ (0 : BitVec 4) ++ BitVec.ofNat 4 P.symW

/-- What a read of a register returns while BUSY = 0, reserved bits 0 and CMD 0 (R66). -/
def State.readReg (s : State) : Reg → Word
  | .id => idValue
  | .param0 => param0Value s.params
  | .paramTextCap => BitVec.ofNat 32 s.params.textCap
  | .paramArtCap => BitVec.ofNat 32 s.params.artCap
  | .paramDtextCap => BitVec.ofNat 32 s.params.dtextCap
  | .cmd => 0
  | .status => s.statusWord
  | .result => s.result.setWidth 32
  | .errInfo => s.errInfo
  | .textLen => s.textLen
  | .artLen => s.artLen
  | .dtextLen => s.dtextLen
  | .rawBits => s.rawBits
  | .pad => s.pad.setWidth 32
  | .leaves => s.leaves.setWidth 32
  | .nodeCount => s.nodeCount.setWidth 32
  | .root => s.root.setWidth 32

/-- Word `w` of a NODE entry (R38): WEIGHT; LEAF [31] and SYMBOL [9:0]; LEFT [10:0]; RIGHT [10:0]. -/
def nodeWord (n : Node) (w : Nat) : Word :=
  match w with
  | 0 => nodeWeight n
  | 1 => BitVec.ofBool (nodeIsLeaf n) ++ (0 : BitVec 21) ++ nodeSymbol n
  | 2 => (nodeLeft n).setWidth 32
  | 3 => (nodeRight n).setWidth 32
  | _ => 0

/-- Word `k` of a CODE entry (R39): `CLEN` in [10:0]; then 32 words of code bits, bit `31-j` of word `k` being code bit
`32(k-1)+j`, 0 beyond the code; then reserved words, which read 0. -/
def codeWord (c : Bits) (k : Nat) : Word :=
  if k = 0 then (BitVec.ofNat 11 c.length).setWidth 32
  else if k ≤ 32 then
    BitVec.ofNat 32 (bitsToNat ((List.range 32).map fun j => c.getD (32 * (k - 1) + j) false))
  else 0

/-- `MemRead(a, 4)` while BUSY = 0 (R66). -/
def State.memRead (s : State) (a : Addr) : Word :=
  match target s.params a with
  | .reg r => s.readReg r
  | .freq i => s.freqAt i
  | .node n w =>
    if s.treeState = .built ∧ n < s.nodeCount.toNat then nodeWord (s.nodeAt n) w else 0
  | .code i k => if s.tableState ≠ .none then codeWord (s.codeAt i) k else 0
  | .text i => (s.textAt i).setWidth 32
  | .art k => (s.artAt k).setWidth 32
  | .dtext i => if i < s.dtextLen.toNat then (s.dtextAt i).setWidth 32 else 0
  | .unmapped => 0

/-- Whether a host read of the target returns what R66 gives even while BUSY = 1: ID, the PARAM registers, STATUS and
unmapped addresses (R73). -/
def readableWhileBusy : Target → Bool
  | .reg .id => true
  | .reg .param0 => true
  | .reg .paramTextCap => true
  | .reg .paramArtCap => true
  | .reg .paramDtextCap => true
  | .reg .status => true
  | .unmapped => true
  | _ => false

/-- What the host gets back from a read of `a`: what R66 gives, or, while BUSY = 1 at another mapped address, a free
value (R73, U2). -/
def State.busAnswer (s : State) (a : Addr) : Word :=
  if s.busy && !readableWhileBusy (target s.params a) then Config.freeBus s.draws else s.memRead a

/-- One host read (R66, R73): the host notes the answer. "A read changes no state" of HUFF1; a free answer uses up one
draw, so that the next one is fresh (U2). -/
def hostRead (a : Addr) (s : State) : State :=
  { s with
    busLog := s.busAnswer a :: s.busLog
    draws := if s.busy && !readableWhileBusy (target s.params a) then s.draws + 1 else s.draws }

/-- `MemWrite(a, 4, v)` while BUSY = 0 (R67, R64, R71). -/
def State.memWrite (a : Addr) (v : Word) (s : State) : State :=
  match target s.params a with
  | .reg .cmd => { s with cmdLatch := some v }
  | .reg .textLen => { s with textLen := v }
  | .reg .artLen => { s with artLen := v }
  | .freq i =>
    { s with mem := { s.mem with freq := s.mem.freq.write i (truncTo s.params.freqW v) } }
  | .text i =>
    { s with mem := { s.mem with
        text := s.mem.text.write i (BitVec.ofNat 10 (v.toNat % 2 ^ s.params.symW)) } }
  | .art k => { s with mem := { s.mem with art := s.mem.art.write k (v.setWidth 8) } }
  | _ => s

/-- One host write: R67 while BUSY = 0; dropped while BUSY = 1, setting STATUS.OVERRUN (R72). -/
def hostWrite (a : Addr) (v : Word) (s : State) : State :=
  if s.busy then { s with overrun := true } else s.memWrite a v

/-- `R addr == value` (R97): a read, and the host notes whether it returned the value. -/
def hostCheck (a : Addr) (v : Word) (s : State) : State :=
  { hostRead a s with checksOk := s.checksOk && s.busAnswer a == v }

/-- The byte address of STATUS (R63). -/
def statusAddr : Addr := 0x24#22

/-- The byte address of CMD (R63). -/
def cmdAddr : Addr := 0x20#22

/-- One pass of `WAIT` (R97): read STATUS; while BUSY = 1 the core gets its turn and the host polls again. -/
def hostWait (s : State) : State :=
  if s.busy then { hostRead statusAddr s with agenda := .core :: .wait :: s.agenda }
  else hostRead statusAddr s

/-- The reset input, asserted and released (R260, R261, R262): every register at its reset value, CMD_LATCH empty, any
running command abandoned, and the contents of all six tables unspecified (a fresh draw). The machine keeps its
parameters; the host keeps its schedule and what it has noted. -/
def hardwareReset (s : State) : State :=
  { State.resetWith s.params with
    mem := Memory.unwritten s.draws
    agenda := s.agenda
    busLog := s.busLog
    checksOk := s.checksOk
    draws := s.draws + 1 }

end Sys2Proof.Machine
end

