-- ==== Sys2Proof/Machine/CodeTable.lean ====
section
/-! DEFINITION. The code table generator: GEN_TABLE (spec/42_code_table.md R150, R153). -/

namespace Sys2Proof.Machine

/-- The stack walk of R150: a leaf gets the path it was reached by as its code; an internal node pushes its right child
and then its left, each with its bit appended. `fuel` bounds the pops; a tree has at most `NODE_MAX` nodes (R111). -/
def genWalk (s : State) : (fuel : Nat) → List (NodeIdx × Bits) → Table Bits → Table Bits
  | 0, _, t => t
  | _ + 1, [], t => t
  | fuel + 1, (n, p) :: stack, t =>
    match s.nodeAt n.toNat with
    | .leaf _ sym => genWalk s fuel stack (t.write sym.toNat p)
    | .internal _ l r => genWalk s fuel ((l, p ++ [false]) :: (r, p ++ [true]) :: stack) t

/-- The CODE contents GEN_TABLE writes: every entry emptied, then the codes of the tree's leaves; the one leaf of a
single-leaf tree gets "0" (R150, R153). -/
def State.generatedCode (s : State) : Table Bits :=
  let cleared := s.mem.code.fill s.params.nsym []
  match s.treeState with
  | .none => cleared
  | .empty => cleared
  | .built =>
    if s.leaves = 1 then cleared.write (nodeSymbol (s.nodeAt 0)).toNat [false]
    else genWalk s s.params.nodeMax [(s.root, [])] cleared

/-- GEN_TABLE (R150): NO_TREE when no tree has been built; else CODE, and TABLE_STATE = EMPTY or READY. -/
def execGenTable (s : State) : Host.Outcome State Fault Refusal :=
  .next (match s.treeState with
    | .none => s.raise { code := .noTree, info := 0 }
    | .empty =>
      State.complete { s with mem := { s.mem with code := s.generatedCode }, tableState := .empty }
    | .built =>
      State.complete { s with mem := { s.mem with code := s.generatedCode }, tableState := .ready })

end Sys2Proof.Machine
end

