-- ==== Sys2Proof/Machine/Control.lean ====
section
/-! DEFINITION. The four control commands NOP, CLEAR, CLRERR and CLRFREQ, and what the core does with an ILLEGAL word
(spec/40_control.md R113 to R118). -/

namespace Sys2Proof.Machine

/-- NOP (R113): `complete()`. -/
def execNop (s : State) : Host.Outcome State Fault Refusal := .next s.complete

/-- The registers CLEAR writes (R115). -/
def State.clearRegisters (s : State) : State :=
  { s with
    err := false, overrun := false
    treeState := .none, tableState := .none
    textLen := 0, artLen := 0, dtextLen := 0
    rawBits := 0, pad := 0
    leaves := 0, nodeCount := 0, root := 0 }

/-- CLEAR, the soft reset (R115). It leaves the contents of all six tables (R116). -/
def execClear (s : State) : Host.Outcome State Fault Refusal := .next s.clearRegisters.complete

/-- CLRERR, the error acknowledge (R117). -/
def execClrerr (s : State) : Host.Outcome State Fault Refusal :=
  .next (State.complete { s with err := false, overrun := false })

/-- CLRFREQ (R118): every FREQ entry becomes 0. -/
def execClrfreq (s : State) : Host.Outcome State Fault Refusal :=
  .next (State.complete { s with mem := { s.mem with freq := s.mem.freq.fill s.params.nsym 0 } })

/-- An ILLEGAL word `v` (R114): `raise ILLEGAL_CMD(v)`, and nothing else changes. -/
def illegalCommand (v : Word) (s : State) : Host.Outcome State Fault Refusal :=
  .next (s.raise { code := .illegalCmd, info := v })

end Sys2Proof.Machine
end

