-- ==== Sys2Proof/Machine/Decoder.lean ====
section
/-! DEFINITION. The bit-string decoder: DECODE (spec/45_decoder.md R210 to R216). -/

namespace Sys2Proof.Machine

/-- The next cursor: `(b = 0) ? LEFT(NODE[cur]) : RIGHT(NODE[cur])` (R210, R212). -/
def State.childOf (s : State) (cur : NodeIdx) (b : Bool) : NodeIdx :=
  if b then nodeRight (s.nodeAt cur.toNat) else nodeLeft (s.nodeAt cur.toNat)

/-- `emit(s, j)` of R210, on the symbols written so far: DTEXT_OVERFLOW when DTEXT is full (R215). -/
def emitSymbol (s : State) (out : List Symbol) (sym : Symbol) (j : Nat) : Except Failure (List Symbol) :=
  if out.length = s.params.dtextCap then .error { code := .dtextOverflow, info := BitVec.ofNat 32 j }
  else .ok (out ++ [sym])

/-- The payload loop of R210 from bit index `j` on, with the cursor and the symbols written so far: the last cursor and
all symbols, or the first failure in bit order (R212, R213, R215, R232). -/
def decodeScan (s : State) : (payload : Bits) → (j : Nat) → (cur : NodeIdx) → (out : List Symbol) →
    Except Failure (NodeIdx × List Symbol)
  | [], _, cur, out => .ok (cur, out)
  | b :: rest, j, cur, out =>
    if s.tableState = .empty then .error { code := .corruptMatch, info := BitVec.ofNat 32 j }
    else if s.leaves = 1 then
      if b then .error { code := .corruptMatch, info := BitVec.ofNat 32 j }
      else
        match emitSymbol s out (nodeSymbol (s.nodeAt 0)) j with
        | .error f => .error f
        | .ok out' => decodeScan s rest (j + 1) cur out'
    else
      if nodeIsLeaf (s.nodeAt (s.childOf cur b).toNat) then
        match emitSymbol s out (nodeSymbol (s.nodeAt (s.childOf cur b).toNat)) j with
        | .error f => .error f
        | .ok out' => decodeScan s rest (j + 1) s.root out'
      else decodeScan s rest (j + 1) (s.childOf cur b) out

/-- DECODE between the length checks and the completion (R210): the header, the payload length and the decoded symbols,
or the first failure; a residual left at the end is CORRUPT_MATCH (R213). -/
def decodeArtifact (s : State) : Except Failure (Byte × Nat × List Symbol) :=
  match unpack (s.artBytes s.artLen.toNat) with
  | .error f => .error f
  | .ok (h, payload) =>
    match decodeScan s payload 0 s.root [] with
    | .error f => .error f
    | .ok (cur, out) =>
      if 2 ≤ s.leaves.toNat ∧ cur ≠ s.root then
        .error { code := .corruptMatch, info := residualInfo payload.length }
      else .ok (h, payload.length, out)

/-- What a successful DECODE writes (R210): the symbols into DTEXT from entry 0 on, DTEXT_LEN, RAW_BITS and PAD. -/
def State.storeText (h : Byte) (payloadLen : Nat) (out : List Symbol) (s : State) : State :=
  { s with
    mem := { s.mem with dtext := s.mem.dtext.writeList 0 out }
    dtextLen := BitVec.ofNat 32 out.length
    rawBits := BitVec.ofNat 32 payloadLen
    pad := h.setWidth 4 }

/-- DECODE (R210). -/
def execDecode (s : State) : Host.Outcome State Fault Refusal :=
  .next (
    if s.tableState = .none then s.decodeErrorEffects.raise { code := .noTable, info := 0 }
    else if s.params.artCap < s.artLen.toNat then
      s.decodeErrorEffects.raise { code := .badLen, info := s.artLen }
    else
      match decodeArtifact s with
      | .error f => s.decodeErrorEffects.raise f
      | .ok (h, payloadLen, out) => (s.storeText h payloadLen out).complete)

end Sys2Proof.Machine
end

