-- ==== Sys2Proof/Machine/Encoder.lean ====
section
/-! DEFINITION. The bit-string encoder: ENCODE (spec/44_encoder.md R190 to R195). -/

namespace Sys2Proof.Machine

/-- The text loop of R190 over the `n` symbols from index `i` on, with the raw bits so far: the whole raw bit string,
or the first failure in text order, MISSING_CODE before ART_OVERFLOW at one index (R191, R192, R194, R231). -/
def encodeScan (s : State) : (n : Nat) → (i : Nat) → (raw : Bits) → Except Failure Bits
  | 0, _, raw => .ok raw
  | n + 1, i, raw =>
    let code := s.codeAt (s.textAt i).toNat
    if code.length = 0 then .error { code := .missingCode, info := BitVec.ofNat 32 i }
    else if s.params.artCap < (raw ++ code).length / 8 + 2 then
      .error { code := .artOverflow, info := BitVec.ofNat 32 i }
    else encodeScan s n (i + 1) (raw ++ code)

/-- What a successful ENCODE writes (R190): the artifact into ART from entry 0 on, ART_LEN, RAW_BITS and PAD. -/
def State.storeArtifact (raw : Bits) (s : State) : State :=
  { s with
    mem := { s.mem with art := s.mem.art.writeList 0 (pack raw) }
    artLen := BitVec.ofNat 32 (pack raw).length
    rawBits := BitVec.ofNat 32 raw.length
    pad := BitVec.ofNat 4 (padCount raw.length) }

/-- ENCODE (R190). After NO_TABLE or BAD_LEN the contents of ART are unchanged; after MISSING_CODE or ART_OVERFLOW they
are unspecified (R193). -/
def execEncode (s : State) : Host.Outcome State Fault Refusal :=
  .next (
    if s.tableState = .none then s.encodeErrorEffects.raise { code := .noTable, info := 0 }
    else if s.params.textCap < s.textLen.toNat then
      s.encodeErrorEffects.raise { code := .badLen, info := s.textLen }
    else
      match encodeScan s s.textLen.toNat 0 [] with
      | .error f => s.forgetArt.encodeErrorEffects.raise f
      | .ok raw => (s.storeArtifact raw).complete)

end Sys2Proof.Machine
end

