-- ==== Sys2Proof/Machine/TreeBuilder.lean ====
section
/-! DEFINITION. The tree builder: BUILD_TREE (spec/41_tree_builder.md R130 to R137). -/

namespace Sys2Proof.Machine

/-- `key(n) = (WEIGHT(n), n)` (R131). -/
structure Key where
  weight : Word
  idx : Nat
  deriving DecidableEq, Repr

/-- `key(a) < key(b)`: lexicographic, the weight first, then the node index (R131). -/
def Key.before (a b : Key) : Bool :=
  a.weight.toNat < b.weight.toNat || (a.weight.toNat == b.weight.toNat && a.idx < b.idx)

/-- The lesser of two keys. -/
def Key.lesser (a b : Key) : Key := if b.before a then b else a

/-- `extract_min(PQ)` (R131): the least key of the queue and the queue without it; none of an empty queue. -/
def extractMin : List Key → Option (Key × List Key)
  | [] => none
  | k :: ks =>
    let m := ks.foldl Key.lesser k
    some (m, (k :: ks).erase m)

/-- Leaf creation (R130): one leaf per non-zero FREQ entry, symbols ascending. The list's position is the node index. -/
def State.leafNodes (s : State) : List Node :=
  (List.range s.params.nsym).filterMap fun i =>
    if s.freqAt i = 0 then none else some (.leaf (s.freqAt i) (BitVec.ofNat 10 i))

/-- `PQ <- {0, 1, ..., L-1}` with the keys of the leaves (R133). -/
def leafKeys (leaves : List Node) : List Key :=
  leaves.mapIdx fun i n => { weight := nodeWeight n, idx := i }

/-- The merge loop of R133: while two nodes are queued, extract `a`, then `b`, append
`Internal(WEIGHT(a) + WEIGHT(b), a, b)` as the next free node and insert it (R132). `fuel` bounds the passes; `L` of
them are more than the `L - 1` the loop takes (R134). -/
def mergeLoop : (fuel : Nat) → List Key → List Node → List Node
  | 0, _, nodes => nodes
  | fuel + 1, pq, nodes =>
    match extractMin pq with
    | none => nodes
    | some (a, pq1) =>
      match extractMin pq1 with
      | none => nodes
      | some (b, pq2) =>
        mergeLoop fuel ({ weight := a.weight + b.weight, idx := nodes.length } :: pq2)
          (nodes ++ [.internal (a.weight + b.weight) (BitVec.ofNat 11 a.idx) (BitVec.ofNat 11 b.idx)])

/-- The nodes BUILD_TREE writes, `NODE[0]` first: a function of the leaves alone (R133, R138). -/
def buildNodes (leaves : List Node) : List Node := mergeLoop leaves.length (leafKeys leaves) leaves

/-- The registers BUILD_TREE writes for `L` leaves (R133, R136, R137). -/
def State.setTreeRegisters (L : Nat) (s : State) : State :=
  { s with
    leaves := BitVec.ofNat 11 L
    nodeCount := if L = 0 then 0 else BitVec.ofNat 12 (2 * L - 1)
    root := if L = 0 then 0 else BitVec.ofNat 11 (2 * L - 2)
    treeState := if L = 0 then .empty else .built
    tableState := .none }

/-- BUILD_TREE (R133): NODE entries from 0 on, LEAVES, NODE_COUNT, ROOT, TREE_STATE, and TABLE_STATE = NONE. It always
succeeds. -/
def execBuildTree (s : State) : Host.Outcome State Fault Refusal :=
  .next (State.complete (State.setTreeRegisters s.leafNodes.length
    { s with mem := { s.mem with node := s.mem.node.writeList 0 (buildNodes s.leafNodes) } }))

end Sys2Proof.Machine
end

