-- ==== Sys2Proof/Machine/HostProgram.lean ====
section
/-! DEFINITION. Host program notation and its expansions (spec/30_encoding.md R97, R98): notation for the moves of the
host. "The core sees the bus operations of its expansion." -/

namespace Sys2Proof.Machine

/-- `CMD mnemonic`: `W 0x000020, word` (R97). -/
def hostCmd (i : Instr) : List Move := [.write cmdAddr (encode i)]

/-- `RUN m` (R98). -/
def hostRun (i : Instr) : List Move := hostCmd i ++ [.wait]

/-- `BUILD` (R98). -/
def hostBuild : List Move := hostRun .buildTree ++ hostRun .genTable

/-- `FREQ s, n`: `W 0x001000 + 4*s, n` (R98). -/
def hostFreq (s : Nat) (n : Word) : List Move := [.write (BitVec.ofNat 22 (0x001000 + 4 * s)) n]

/-- `TEXT i, s`: `W 0x100000 + 4*i, s` (R98). -/
def hostText (i : Nat) (s : Word) : List Move := [.write (BitVec.ofNat 22 (0x100000 + 4 * i)) s]

/-- `ART k, b`: `W 0x200000 + 4*k, b` (R98). -/
def hostArt (k : Nat) (b : Word) : List Move := [.write (BitVec.ofNat 22 (0x200000 + 4 * k)) b]

/-- `LOADTEXT s0 s1 ... s(n-1)` (R98). -/
def hostLoadText (text : List Word) : List Move :=
  (text.mapIdx hostText).flatten ++ [.write 0x30#22 (BitVec.ofNat 32 text.length)]

/-- `LOADART b0 b1 ... b(m-1)` (R98). -/
def hostLoadArt (bytes : List Word) : List Move :=
  (bytes.mapIdx hostArt).flatten ++ [.write 0x34#22 (BitVec.ofNat 32 bytes.length)]

/-- `CHECKOK`: `R 0x000028 == 0` (R98). -/
def hostCheckOk : List Move := [.check 0x28#22 0]

/-- `COMPRESS` (R98). -/
def hostCompress : List Move := hostRun .encode ++ hostCheckOk

/-- `DECOMPRESS` (R98). -/
def hostDecompress : List Move := hostRun .decode ++ hostCheckOk

end Sys2Proof.Machine
end

