-- ==== Sys2Proof/Machine/Scheduler.lean ====
section
/-! DEFINITION. One atomic step of one agent (spec/20_memory.md R60, R75; spec/40_control.md R111): which move does what,
and what the core does with its turn. -/

namespace Sys2Proof.Machine

/-- The core runs the latched word `v`: the decoded command's `exec`, or the illegal command (R110, R114). -/
def runWord (v : Word) (s : State) : Host.Outcome State Fault Refusal :=
  match decode v with
  | .ok i => exec i s
  | .error _ => illegalCommand v s

/-- The core's turn (R111): it has a step exactly when CMD_LATCH is full, and the step runs the whole command. When
CMD_LATCH is empty "it does nothing until the next CMD write" (R244). -/
def coreTurn (s : State) : Host.Outcome State Fault Refusal :=
  match s.cmdLatch with
  | none => .next s
  | some v => runWord v s

/-- One scheduled move (R75). -/
def runMove (m : Move) (s : State) : Host.Outcome State Fault Refusal :=
  match m with
  | .write a v => .next (hostWrite a v s)
  | .read a => .next (hostRead a s)
  | .check a v => .next (hostCheck a v s)
  | .wait => .next (hostWait s)
  | .core => coreTurn s
  | .reset => .next (hardwareReset s)

/-- The next move of the agenda; when none is scheduled, the core's turn (weak fairness of the core step, R111). -/
def schedule (s : State) : Host.Outcome State Fault Refusal :=
  match s.agenda with
  | [] => coreTurn s
  | m :: rest => runMove m { s with agenda := rest }

/-- `s` with the command word `v` in CMD_LATCH and the core's turn next. -/
def State.latchWord (v : Word) (s : State) : State := { s with cmdLatch := some v, agenda := [] }

/-- Commands one after another, with nothing between them: each runs as the core step would run it (R196). -/
def execAll : List Instr → State → Host.Outcome State Fault Refusal
  | [], s => .next s
  | i :: rest, s =>
    match exec i s with
    | .next t => execAll rest t
    | .fault r => .fault r
    | .refused r => .refused r

end Sys2Proof.Machine
end

