-- ==== Sys2Proof/Machine/Step.lean ====
section
/-! DEFINITION. The step: one atomic step of the host, the core or the reset input (spec/20_memory.md R75). -/

namespace Sys2Proof.Machine

/-- One step (R75): the next scheduled move, or the core's turn. -/
def step (s : State) : Host.Outcome State Fault Refusal := schedule s

/-- `s` with the command word `w` where the core takes its next command from: CMD_LATCH (R21, R43), with no host move
before the core step. A command is one 32-bit word (R90); the bits above `nbits` are 0. -/
def State.withFetchWord (s : State) (nbits w : Nat) : State :=
  s.latchWord (BitVec.ofNat 32 (w % 2 ^ nbits))

end Sys2Proof.Machine
end

