-- ==== Sys2Proof/Safety.lean ====
section
/-! DEFINITION. The terms claims are stated in: what a safe step is, the path a bit string takes through the tree
(spec/42_code_table.md R152, R154), the source's accumulator decoder (spec/45_decoder.md R214), and the invariants of
spec/10_state.md R45 and R46. -/

namespace Sys2Proof.Machine

/-- A safe outcome: the machine goes on (R79: "the core never hangs and never raises anything else"). -/
def Safe (o : Host.Outcome State Fault Refusal) : Prop := ∃ t, o = .next t

/-- The byte offset of each register, the table of R63 read from register to offset. -/
def registerOffset : Reg → Nat
  | .id => 0x000
  | .param0 => 0x004
  | .paramTextCap => 0x008
  | .paramArtCap => 0x00C
  | .paramDtextCap => 0x010
  | .cmd => 0x020
  | .status => 0x024
  | .result => 0x028
  | .errInfo => 0x02C
  | .textLen => 0x030
  | .artLen => 0x034
  | .dtextLen => 0x038
  | .rawBits => 0x03C
  | .pad => 0x040
  | .leaves => 0x044
  | .nodeCount => 0x048
  | .root => 0x04C

/-- The number of leaves `L` of the tree in NODE (R34). -/
def State.leafCount (s : State) : Nat := s.leaves.toNat

/-- `WEIGHT(n)` as a number (R131). -/
def State.weightAt (s : State) (n : Nat) : Nat := (nodeWeight (s.nodeAt n)).toNat

/-- The child node indices of entry `n` (R38). -/
def State.leftAt (s : State) (n : Nat) : Nat := (nodeLeft (s.nodeAt n)).toNat

/-- The child node indices of entry `n` (R38). -/
def State.rightAt (s : State) (n : Nat) : Nat := (nodeRight (s.nodeAt n)).toNat

/-- The symbol of entry `n` as a table index (R38). -/
def State.symbolAt (s : State) (n : Nat) : Nat := (nodeSymbol (s.nodeAt n)).toNat

/-- Whether entry `n` is a leaf (R38). -/
def State.isLeafAt (s : State) (n : Nat) : Bool := nodeIsLeaf (s.nodeAt n)

/-- `key(a) < key(b)` of two node indices (R131). -/
abbrev State.keyBefore (s : State) (a b : Nat) : Prop :=
  s.weightAt a < s.weightAt b ∨ (s.weightAt a = s.weightAt b ∧ a < b)

/-- Whether entry `m` is a child of entry `n` (R46). -/
def State.isChildOf (s : State) (m n : Nat) : Bool := s.leftAt n == m || s.rightAt n == m

/-- The entry a bit string leads to from entry `n`, left on 0 and right on 1, when every entry it passes before the end
is internal (R152, R154). -/
def State.walk (s : State) : (n : Nat) → Bits → Option Nat
  | n, [] => some n
  | n, b :: rest =>
    if s.isLeafAt n then none else s.walk (if b then s.rightAt n else s.leftAt n) rest

/-- The sum of all FREQ entries (R134). -/
def State.freqSum (s : State) : Nat := ((List.range s.params.nsym).map fun i => (s.freqAt i).toNat).sum

/-- The number of non-zero FREQ entries (R34). -/
def State.freqCount (s : State) : Nat :=
  ((List.range s.params.nsym).filter fun i => s.freqAt i != 0).length

/-- Entry `m` is in the priority queue when internal entry `n` is about to be written: it exists and no earlier internal
entry has taken it (R131, R132). -/
abbrev State.queuedAt (s : State) (n m : Nat) : Prop :=
  m < n ∧ ∀ k < n, s.leafCount ≤ k → s.isChildOf m k = false

/-- The raw bit string of the first `n` symbols of TEXT: their codes concatenated (R191). -/
def State.rawBitsOf (s : State) (n : Nat) : Bits :=
  (List.range n).flatMap fun i => s.codeAt (s.textAt i).toNat

/-- `SymOf(c)` (R154): the symbol whose non-empty code is `c`. -/
def State.symOf (s : State) (c : Bits) : Option Nat :=
  (List.range s.params.nsym).find? fun i => s.clen i != 0 && s.codeAt i == c

/-- The source's scan (R214): bits are added to an accumulator; whenever it matches a code the symbol is emitted and the
accumulator is emptied. The result is the residual and the symbols. -/
def State.accumulate (s : State) : (payload : Bits) → (acc : Bits) → (out : List Nat) → Bits × List Nat
  | [], acc, out => (acc, out)
  | b :: rest, acc, out =>
    match s.symOf (acc ++ [b]) with
    | some i => s.accumulate rest [] (out ++ [i])
    | none => s.accumulate rest (acc ++ [b]) out

/-- Every written entry is inside its table and inside its width (R37 to R42, R64). -/
abbrev State.EntriesFit (s : State) : Prop :=
  (∀ c ∈ s.mem.freq.cells, c.1 < s.params.nsym ∧ c.2.toNat < 2 ^ s.params.freqW) ∧
  (∀ c ∈ s.mem.node.cells, c.1 < s.params.nodeMax) ∧
  (∀ c ∈ s.mem.code.cells, c.1 < s.params.nsym ∧ c.2.length ≤ s.params.maxCodeLen) ∧
  (∀ c ∈ s.mem.text.cells, c.1 < s.params.textCap ∧ c.2.toNat < s.params.nsym) ∧
  (∀ c ∈ s.mem.art.cells, c.1 < s.params.artCap) ∧
  (∀ c ∈ s.mem.dtext.cells, c.1 < s.params.dtextCap ∧ c.2.toNat < s.params.nsym)

/-- The tree shape of R46 for a BUILT tree. -/
abbrev State.BuiltShape (s : State) : Prop :=
  1 ≤ s.leafCount ∧ s.leafCount ≤ s.params.nsym ∧
  s.nodeCount.toNat = 2 * s.leafCount - 1 ∧
  s.root.toNat = 2 * s.leafCount - 2 ∧
  (∀ n < s.leafCount, s.isLeafAt n = true ∧ s.symbolAt n < s.params.nsym) ∧
  (∀ n < s.leafCount, ∀ m < n, s.symbolAt m < s.symbolAt n) ∧
  (∀ n < 2 * s.leafCount - 1, s.leafCount ≤ n →
    s.isLeafAt n = false ∧ s.leftAt n < n ∧ s.rightAt n < n ∧
      s.weightAt n = s.weightAt (s.leftAt n) + s.weightAt (s.rightAt n)) ∧
  (∀ m < 2 * s.leafCount - 2,
    ((List.range (2 * s.leafCount - 1)).filter fun n =>
      decide (s.leafCount ≤ n) && s.isChildOf m n).length = 1)

/-- The tree shape of R46. -/
def State.TreeShape (s : State) : Prop :=
  (s.treeState = .empty → s.leaves = 0 ∧ s.nodeCount = 0 ∧ s.root = 0) ∧
  (s.treeState = .built → s.BuiltShape)

/-- `CODE = CodeTableOf(tree)` for a BUILT tree (R152, R153): the code of each leaf's symbol is the path from ROOT to
the leaf, "0" for the one leaf of a single-leaf tree; a symbol with no leaf has no code. -/
abbrev State.CodesAreTreePaths (s : State) : Prop :=
  (∀ x < s.leafCount,
    if s.leafCount = 1 then s.codeAt (s.symbolAt x) = [false]
    else s.walk s.root.toNat (s.codeAt (s.symbolAt x)) = some x) ∧
  (∀ i < s.params.nsym, (∀ x < s.leafCount, s.symbolAt x ≠ i) → s.codeAt i = [])

/-- Table consistency (R45). -/
def State.TableConsistent (s : State) : Prop :=
  (s.tableState ≠ .none → s.treeState ≠ .none ∧ (s.tableState = .empty ↔ s.treeState = .empty)) ∧
  (s.tableState = .empty → ∀ i < s.params.nsym, s.codeAt i = []) ∧
  (s.tableState = .ready → s.CodesAreTreePaths)

/-- What every step keeps: the parameters are legal (R4), the memory is canonical, the entries fit (R64), and the tree
and the table are as R45 and R46 say. -/
def State.Inv (s : State) : Prop :=
  s.params.legal = true ∧ s.mem.wf ∧ s.EntriesFit ∧ s.TreeShape ∧ s.TableConsistent

end Sys2Proof.Machine
end

