-- ==== Sys2Proof/Certificates/Slice0/Obligations.lean ====
section
/-! DEFINITION. The statements for the provers, from the numbered rules of spec/. Each docstring names the rule it
formalises; OBLIGATIONS.json holds the list. -/

open Sys2Proof Sys2Proof.Machine

/-! ## Encoding and dispatch (30_encoding.md, 40_control.md) -/

/-- R91: the eight command words stand for their commands. -/
def Obligations.CommandWordsDecode : Prop :=
  decode 0x00000000#32 = .ok .nop ∧ decode 0x01000000#32 = .ok .clear ∧
  decode 0x02000000#32 = .ok .clrerr ∧ decode 0x03000000#32 = .ok .clrfreq ∧
  decode 0x10000000#32 = .ok .buildTree ∧ decode 0x11000000#32 = .ok .genTable ∧
  decode 0x20000000#32 = .ok .encode ∧ decode 0x30000000#32 = .ok .decode

/-- Decoding and encoding agree over all 2^32 words: a word decodes to a command exactly when it is that command's
word (30_encoding.md §1, §3). -/
def Obligations.DecodeInvertsEncode : Prop :=
  ∀ (v : Word) (i : Instr), decode v = .ok i ↔ v = encode i

/-- R94: a non-zero RSVD field or an opcode outside the map makes a word ILLEGAL. -/
def Obligations.OtherWordsAreIllegal : Prop :=
  ∀ v : Word,
    (v.toNat % 2 ^ 24 ≠ 0 → ∃ e, decode v = .error e) ∧
    (v.toNat / 2 ^ 24 ∉ [0x00, 0x01, 0x02, 0x03, 0x10, 0x11, 0x20, 0x30] → ∃ e, decode v = .error e)

/-- R110, R111: a core step with the word of command `i` in CMD_LATCH is `exec i`, whether the core's turn is scheduled
or nothing is; and `withFetchWord` makes the very next step run the table word's command. -/
def Obligations.StepRunsDecodedCommand : Prop :=
  (∀ (s : State) (v : Word) (i : Instr), s.cmdLatch = some v → decode v = .ok i →
    (s.agenda = [] → step s = exec i s) ∧
    (∀ rest, s.agenda = .core :: rest → step s = exec i { s with agenda := rest })) ∧
  (∀ (s : State) (nbits w : Nat) (i : Instr), decodeTableWord nbits w = some i →
    step (s.withFetchWord nbits w) = exec i (s.withFetchWord nbits w))

/-- R114: an ILLEGAL word completes with ILLEGAL_CMD, ERR_INFO the word, STATUS.ERR = 1, and changes nothing else,
whether the core's turn is scheduled or nothing is. (The schedule `agenda` is the model's own,
notes/assumptions/2.md.) -/
def Obligations.StepRunsIllegalWord : Prop :=
  ∀ (s : State) (v : Word) (e : Illegal), s.cmdLatch = some v → decode v = .error e →
    (s.agenda = [] →
      step s = .next { s with result := 0x01, errInfo := v, err := true, cmdLatch := none }) ∧
    (∀ rest, s.agenda = .core :: rest →
      step s = .next { s with
        agenda := rest, result := 0x01, errInfo := v, err := true, cmdLatch := none })

/-- R111, R244: with CMD_LATCH empty the core has no step; its turn changes nothing. -/
def Obligations.CoreIdlesWithoutCommand : Prop :=
  ∀ s : State, s.cmdLatch = none →
    (s.agenda = [] → step s = .next s) ∧
    (∀ rest, s.agenda = .core :: rest → step s = .next { s with agenda := rest })

/-! ## Control commands (40_control.md) -/

/-- R113: NOP only completes; STATUS.ERR and STATUS.OVERRUN stay. -/
def Obligations.NopOnlyCompletes : Prop :=
  ∀ s : State, exec .nop s = .next { s with result := 0, errInfo := 0, cmdLatch := none }

/-- R115, R116: CLEAR puts the registers at their reset values and leaves all six tables. -/
def Obligations.ClearResetsRegisters : Prop :=
  ∀ s : State, exec .clear s = .next { s with
    err := false, overrun := false, treeState := .none, tableState := .none
    textLen := 0, artLen := 0, dtextLen := 0, rawBits := 0, pad := 0
    leaves := 0, nodeCount := 0, root := 0
    result := 0, errInfo := 0, cmdLatch := none }

/-- R117: CLRERR clears the two sticky bits and completes; nothing else changes. -/
def Obligations.ClrerrClearsStickyBits : Prop :=
  ∀ s : State, exec .clrerr s = .next { s with
    err := false, overrun := false, result := 0, errInfo := 0, cmdLatch := none }

/-- R118: CLRFREQ makes every FREQ entry 0 and changes nothing else. -/
def Obligations.ClrfreqZeroesFreq : Prop :=
  ∀ s : State, ∃ f : Table Word,
    exec .clrfreq s = .next { s with
      mem := { s.mem with freq := f }, result := 0, errInfo := 0, cmdLatch := none } ∧
    f.epoch = s.mem.freq.epoch ∧
    (∀ i < s.params.nsym, f.read i = some 0) ∧
    (∀ i, s.params.nsym ≤ i → f.read i = s.mem.freq.read i)

/-! ## Tree builder (41_tree_builder.md) -/

/-- R130, R133: BUILD_TREE always succeeds; with `L` non-zero FREQ entries it writes the leaves in symbol order to
entries 0 to `L - 1`, entries up to `2L - 2`, and LEAVES, NODE_COUNT, ROOT, TREE_STATE and TABLE_STATE; nothing else
changes, NODE entries from `2L - 1` on included. -/
def Obligations.BuildTreeWritesLeavesAndRegisters : Prop :=
  ∀ s : State, ∃ nd : Table Node,
    exec .buildTree s = .next { s with
      mem := { s.mem with node := nd }
      leaves := BitVec.ofNat 11 s.freqCount
      nodeCount := if s.freqCount = 0 then 0 else BitVec.ofNat 12 (2 * s.freqCount - 1)
      root := if s.freqCount = 0 then 0 else BitVec.ofNat 11 (2 * s.freqCount - 2)
      treeState := if s.freqCount = 0 then .empty else .built
      tableState := .none
      result := 0, errInfo := 0, cmdLatch := none } ∧
    nd.epoch = s.mem.node.epoch ∧
    (∀ i < s.params.nsym, s.freqAt i ≠ 0 →
      nd.read ((List.range i).filter fun j => s.freqAt j != 0).length
        = some (.leaf (s.freqAt i) (BitVec.ofNat 10 i))) ∧
    (∀ n, 2 * s.freqCount - 1 ≤ n → nd.read n = s.mem.node.read n)

/-- R134 (and R46, R5): on legal parameters BUILD_TREE leaves a tree of the shape R46 gives, no weight sum overflows,
and the root's weight is the sum of all FREQ entries. -/
def Obligations.BuildTreeGivesTreeShape : Prop :=
  ∀ s : State, s.params.legal = true → s.EntriesFit → 1 ≤ s.freqCount →
    ∃ t, exec .buildTree s = .next t ∧ t.treeState = .built ∧ t.leafCount = s.freqCount ∧
      t.BuiltShape ∧ t.weightAt t.root.toNat = s.freqSum

/-- R131, R132: every internal node's children are the two nodes of least key in the queue at its merge, the lesser on
the left, and its weight is their exact sum. -/
def Obligations.BuildTreeMergesTwoLeast : Prop :=
  ∀ s t : State, s.params.legal = true → s.EntriesFit → exec .buildTree s = .next t →
    ∀ n < t.nodeCount.toNat, t.leafCount ≤ n →
      t.weightAt n = t.weightAt (t.leftAt n) + t.weightAt (t.rightAt n) ∧
      t.queuedAt n (t.leftAt n) ∧ t.queuedAt n (t.rightAt n) ∧
      t.keyBefore (t.leftAt n) (t.rightAt n) ∧
      ∀ m, t.queuedAt n m → m ≠ t.leftAt n → m ≠ t.rightAt n → t.keyBefore (t.rightAt n) m

/-- R135, R136: one non-zero FREQ entry gives the one-leaf tree; none gives the EMPTY tree and writes no node. -/
def Obligations.BuildTreeDegenerateCases : Prop :=
  (∀ (s : State) (i : Nat), i < s.params.nsym → s.freqAt i ≠ 0 →
    (∀ j < s.params.nsym, j ≠ i → s.freqAt j = 0) →
    ∃ t, exec .buildTree s = .next t ∧ t.result = 0 ∧ t.leaves = 1 ∧ t.nodeCount = 1 ∧ t.root = 0 ∧
      t.treeState = .built ∧ t.nodeAt 0 = .leaf (s.freqAt i) (BitVec.ofNat 10 i)) ∧
  (∀ s : State, (∀ j < s.params.nsym, s.freqAt j = 0) →
    exec .buildTree s = .next { s with
      leaves := 0, nodeCount := 0, root := 0, treeState := .empty, tableState := .none
      result := 0, errInfo := 0, cmdLatch := none })

/-- R138: two BUILD_TREE commands from equal FREQ contents give equal NODE entries, LEAVES, NODE_COUNT and ROOT, whatever
else differs. -/
def Obligations.BuildTreeDependsOnFreqOnly : Prop :=
  ∀ s1 s2 t1 t2 : State, s1.params.symW = s2.params.symW →
    (∀ i < s1.params.nsym, s1.freqAt i = s2.freqAt i) →
    exec .buildTree s1 = .next t1 → exec .buildTree s2 = .next t2 →
    t1.leaves = t2.leaves ∧ t1.nodeCount = t2.nodeCount ∧ t1.root = t2.root ∧
    t1.treeState = t2.treeState ∧ ∀ n < t1.nodeCount.toNat, t1.nodeAt n = t2.nodeAt n

/-- R137: after BUILD_TREE, ENCODE and DECODE fail with NO_TABLE. -/
def Obligations.NoTableAfterBuildTree : Prop :=
  ∀ s : State, ∃ t, exec .buildTree s = .next t ∧ t.tableState = .none ∧
    (∃ u, exec .encode t = .next u ∧ u.result = 0x03) ∧
    (∃ u, exec .decode t = .next u ∧ u.result = 0x03)

/-! ## Code table generator (42_code_table.md) -/

/-- R150: with no tree GEN_TABLE fails with NO_TREE; CODE and TABLE_STATE do not change, and nothing else does. -/
def Obligations.GenTableNeedsTree : Prop :=
  ∀ s : State, s.treeState = .none →
    exec .genTable s = .next { s with result := 0x02, errInfo := 0, err := true, cmdLatch := none }

/-- The frame of GEN_TABLE (R150): with a tree it succeeds, writes every CODE entry and TABLE_STATE, and changes nothing
else; from an EMPTY tree no symbol has a code. -/
def Obligations.GenTableWritesOnlyCode : Prop :=
  ∀ s : State, s.treeState ≠ .none → ∃ cd : Table Bits,
    exec .genTable s = .next { s with
      mem := { s.mem with code := cd }
      tableState := if s.treeState = .empty then .empty else .ready
      result := 0, errInfo := 0, cmdLatch := none } ∧
    cd.epoch = s.mem.code.epoch ∧
    (∀ i < s.params.nsym, ∃ c, cd.read i = some c) ∧
    (s.treeState = .empty → ∀ i < s.params.nsym, cd.read i = some [])

/-- R152, R153: from a tree of the shape of R46, GEN_TABLE writes each leaf's path as its symbol's code ("0" for a
single leaf) and no code for any other symbol; from an EMPTY tree no symbol has a code. -/
def Obligations.GenTableWritesTreePaths : Prop :=
  (∀ s : State, s.params.legal = true → s.treeState = .built → s.BuiltShape →
    ∃ t, exec .genTable s = .next t ∧ t.result = 0 ∧ t.tableState = .ready ∧ t.CodesAreTreePaths) ∧
  (∀ s : State, s.treeState = .empty →
    ∃ t, exec .genTable s = .next t ∧ t.result = 0 ∧ t.tableState = .empty ∧
      ∀ i < s.params.nsym, t.codeAt i = [])

/-- R157: GEN_TABLE twice writes the same CODE contents, and so does GEN_TABLE after BUILD_TREE on equal FREQ
contents. -/
def Obligations.GenTableIsReproducible : Prop :=
  (∀ s t u : State, exec .genTable s = .next t → exec .genTable t = .next u →
    ∀ i < s.params.nsym, u.codeAt i = t.codeAt i) ∧
  (∀ s1 s2 t1 t2 u1 u2 : State, s1.params.legal = true → s1.params.symW = s2.params.symW →
    (∀ i < s1.params.nsym, s1.freqAt i = s2.freqAt i) →
    exec .buildTree s1 = .next t1 → exec .buildTree s2 = .next t2 →
    exec .genTable t1 = .next u1 → exec .genTable t2 = .next u2 →
    ∀ i < s1.params.nsym, u1.codeAt i = u2.codeAt i)

/-- R155, first part: every code is non-empty and no code is a prefix of another. -/
def Obligations.CodesArePrefixFree : Prop :=
  ∀ s : State, s.Inv → s.tableState = .ready →
    (∀ x < s.leafCount, s.codeAt (s.symbolAt x) ≠ []) ∧
    ∀ i < s.params.nsym, ∀ j < s.params.nsym, i ≠ j → s.codeAt i ≠ [] → s.codeAt j ≠ [] →
      ¬ s.codeAt i <+: s.codeAt j

/-- R155, second part: with two leaves or more, every infinite bit string has exactly one code as a prefix. -/
def Obligations.CodesAreComplete : Prop :=
  ∀ s : State, s.Inv → s.tableState = .ready → 2 ≤ s.leafCount → ∀ f : Nat → Bool,
    ∃ i, (i < s.params.nsym ∧ s.codeAt i ≠ [] ∧ s.codeAt i = (List.range (s.clen i)).map f) ∧
      ∀ j, j < s.params.nsym → s.codeAt j ≠ [] → s.codeAt j = (List.range (s.clen j)).map f → j = i

/-- R156: the longest code has 1 bit when `L = 1` (the leaf's symbol has a code of 1 bit, no code is longer) and
at most `L - 1` bits when `L >= 2`, and `L <= NSYM`. -/
def Obligations.CodeLengthBound : Prop :=
  ∀ s : State, s.Inv → s.tableState = .ready → s.leafCount ≤ s.params.nsym ∧
    (s.leafCount = 1 → s.clen (s.symbolAt 0) = 1 ∧ ∀ i < s.params.nsym, s.clen i ≤ 1) ∧
    (2 ≤ s.leafCount → ∀ i < s.params.nsym, s.clen i ≤ s.leafCount - 1)

/-- R154: `SymOf(c) = s` exactly when the walk from ROOT over `c` ends at the leaf of `s`; for a single leaf, exactly when
`c = "0"`. -/
def Obligations.SymOfIsTreeWalk : Prop :=
  ∀ s : State, s.Inv → s.tableState = .ready → ∀ (c : Bits) (i : Nat),
    (2 ≤ s.leafCount →
      (s.symOf c = some i ↔ ∃ x < s.leafCount, s.symbolAt x = i ∧ s.walk s.root.toNat c = some x)) ∧
    (s.leafCount = 1 → (s.symOf c = some i ↔ c = [false] ∧ i = s.symbolAt 0))

/-! ## Padding header processor (43_padding_header.md) -/

/-- R173, R174, R175: the packed artifact is the header `8 - (n mod 8)`, the raw bits and that many zero bits, as
`n div 8 + 2` bytes; its first byte is in 1 to 8. -/
def Obligations.PackLayout : Prop :=
  ∀ raw : Bits,
    unpack8 (pack raw) =
      ubin8 (BitVec.ofNat 8 (8 - raw.length % 8)) ++ raw ++ List.replicate (8 - raw.length % 8) false ∧
    (pack raw).length = raw.length / 8 + 2 ∧
    ∃ h rest, pack raw = h :: rest ∧ h.toNat = 8 - raw.length % 8 ∧ 1 ≤ h.toNat ∧ h.toNat ≤ 8

/-- R170: bit `i` of an artifact's bit stream is bit `7 - (i mod 8)` of byte `i div 8`. -/
def Obligations.ArtifactBitOrder : Prop :=
  ∀ (B : List Byte) (i : Nat), i < 8 * B.length →
    (unpack8 B)[i]? = some ((B.getD (i / 8) 0).getLsbD (7 - i % 8))

/-- R179: the header layer round-trips. -/
def Obligations.UnpackInvertsPack : Prop :=
  ∀ raw : Bits, unpack (pack raw) = .ok (BitVec.ofNat 8 (8 - raw.length % 8), raw)

/-- R176: the header checks in their order, with their information words, and the payload's place. -/
def Obligations.UnpackHeaderCases : Prop :=
  unpack [] = .error { code := .corruptHeader, info := 0 } ∧
  ∀ (h : Byte) (rest : List Byte),
    (8 < h.toNat →
      unpack (h :: rest) = .error { code := .corruptHeader, info := BitVec.ofNat 32 (h.toNat * 256 + 1) }) ∧
    (h.toNat ≤ 8 → 8 * (rest.length + 1) < 8 + h.toNat →
      unpack (h :: rest) = .error { code := .corruptHeader, info := BitVec.ofNat 32 (h.toNat * 256 + 2) }) ∧
    (h.toNat ≤ 8 → 8 + h.toNat ≤ 8 * (rest.length + 1) → ∃ payload,
      unpack (h :: rest) = .ok (h, payload) ∧
      payload = (unpack8 rest).take (8 * rest.length - h.toNat) ∧
      payload.length = 8 * (rest.length + 1) - 8 - h.toNat)

/-- R178: the last `h` bits of the artifact are not read. -/
def Obligations.UnpackIgnoresFiller : Prop :=
  ∀ (h : Byte) (B B' : List Byte), B.length = B'.length →
    (unpack8 B).take (8 * B.length - h.toNat) = (unpack8 B').take (8 * B.length - h.toNat) →
    unpack (h :: B) = unpack (h :: B')

/-! ## Encoder (44_encoder.md) -/

/-- R193, R231: NO_TABLE before BAD_LEN; ART_LEN, RAW_BITS and PAD become 0, ART and everything else stay. -/
def Obligations.EncodeWithoutTableOrLength : Prop :=
  ∀ s : State,
    (s.tableState = .none → exec .encode s = .next { s with
      artLen := 0, rawBits := 0, pad := 0
      result := 0x03, errInfo := 0, err := true, cmdLatch := none }) ∧
    (s.tableState ≠ .none → s.params.textCap < s.textLen.toNat → exec .encode s = .next { s with
      artLen := 0, rawBits := 0, pad := 0
      result := 0x04, errInfo := s.textLen, err := true, cmdLatch := none })

/-- R190, R191, R195: when every symbol of the text has a code and the artifact fits, ENCODE succeeds: ART holds
`Pack` of the concatenated codes, entries beyond it stay, and ART_LEN, RAW_BITS and PAD say so. -/
def Obligations.EncodePacksTheCodes : Prop :=
  ∀ s : State, s.tableState ≠ .none → s.textLen.toNat ≤ s.params.textCap →
    (∀ i < s.textLen.toNat, s.codeAt (s.textAt i).toNat ≠ []) →
    (s.rawBitsOf s.textLen.toNat).length / 8 + 2 ≤ s.params.artCap →
    ∃ a : Table Byte,
      exec .encode s = .next { s with
        mem := { s.mem with art := a }
        artLen := BitVec.ofNat 32 ((s.rawBitsOf s.textLen.toNat).length / 8 + 2)
        rawBits := BitVec.ofNat 32 (s.rawBitsOf s.textLen.toNat).length
        pad := BitVec.ofNat 4 (8 - (s.rawBitsOf s.textLen.toNat).length % 8)
        result := 0, errInfo := 0, cmdLatch := none } ∧
      a.epoch = s.mem.art.epoch ∧
      (∀ k < (s.rawBitsOf s.textLen.toNat).length / 8 + 2,
        a.read k = (pack (s.rawBitsOf s.textLen.toNat))[k]?) ∧
      (∀ k, (s.rawBitsOf s.textLen.toNat).length / 8 + 2 ≤ k → a.read k = s.mem.art.read k)

/-- R192, R194, R231: the failure at the smallest text index is reported with that index, MISSING_CODE before
ART_OVERFLOW; ART_LEN, RAW_BITS and PAD become 0 (R193), and only ART's contents and the next draw are left open. -/
def Obligations.EncodeReportsFirstFailure : Prop :=
  ∀ (s : State) (i : Nat), s.tableState ≠ .none → s.textLen.toNat ≤ s.params.textCap →
    i < s.textLen.toNat →
    (∀ j < i, s.codeAt (s.textAt j).toNat ≠ [] ∧
      (s.rawBitsOf (j + 1)).length / 8 + 2 ≤ s.params.artCap) →
    (s.codeAt (s.textAt i).toNat = [] → ∃ (a : Table Byte) (d : Nat),
      exec .encode s = .next { s with
        mem := { s.mem with art := a }, draws := d, artLen := 0, rawBits := 0, pad := 0
        result := 0x05, errInfo := BitVec.ofNat 32 i, err := true, cmdLatch := none }) ∧
    (s.codeAt (s.textAt i).toNat ≠ [] →
      s.params.artCap < (s.rawBitsOf (i + 1)).length / 8 + 2 → ∃ (a : Table Byte) (d : Nat),
      exec .encode s = .next { s with
        mem := { s.mem with art := a }, draws := d, artLen := 0, rawBits := 0, pad := 0
        result := 0x06, errInfo := BitVec.ofNat 32 i, err := true, cmdLatch := none })

/-- The frame of ENCODE over every outcome (R195, R193): only ART, ART_LEN, RAW_BITS, PAD and the completion registers
change; on an error the three lengths are 0. (`draws` is the model's own.) -/
def Obligations.EncodeChangesOnlyItsOutputs : Prop :=
  ∀ s t : State, exec .encode s = .next t →
    t = { s with
      mem := { s.mem with art := t.mem.art }, draws := t.draws
      artLen := t.artLen, rawBits := t.rawBits, pad := t.pad
      result := t.result, errInfo := t.errInfo, err := s.err || t.result != 0, cmdLatch := none } ∧
    (t.result ≠ 0 → t.artLen = 0 ∧ t.rawBits = 0 ∧ t.pad = 0) ∧
    (t.result = 0x03 ∨ t.result = 0x04 → t.mem.art = s.mem.art)

/-! ## Decoder (45_decoder.md) -/

/-- R232, R216: NO_TABLE, then BAD_LEN, then the header failures; DTEXT_LEN, RAW_BITS and PAD become 0, and only the
stored DTEXT contents (unreadable) and the next draw are left open. -/
def Obligations.DecodeEarlyFailures : Prop :=
  ∀ s : State, ∃ (d : Table Symbol) (n : Nat),
    (s.tableState = .none → exec .decode s = .next { s with
      mem := { s.mem with dtext := d }, draws := n, dtextLen := 0, rawBits := 0, pad := 0
      result := 0x03, errInfo := 0, err := true, cmdLatch := none }) ∧
    (s.tableState ≠ .none → s.params.artCap < s.artLen.toNat → exec .decode s = .next { s with
      mem := { s.mem with dtext := d }, draws := n, dtextLen := 0, rawBits := 0, pad := 0
      result := 0x04, errInfo := s.artLen, err := true, cmdLatch := none }) ∧
    (∀ f, s.tableState ≠ .none → s.artLen.toNat ≤ s.params.artCap →
      unpack (s.artBytes s.artLen.toNat) = .error f → exec .decode s = .next { s with
      mem := { s.mem with dtext := d }, draws := n, dtextLen := 0, rawBits := 0, pad := 0
      result := 0x07, errInfo := f.info, err := true, cmdLatch := none })

/-- R210, R212: a payload that is the concatenation of the codes of some symbols decodes to those symbols, with any table
state but NONE; entries beyond them stay, and DTEXT_LEN, RAW_BITS and PAD say so. -/
def Obligations.DecodeReadsCodes : Prop :=
  ∀ (s : State) (h : Byte) (syms : List Nat), s.Inv → s.tableState ≠ .none →
    s.artLen.toNat ≤ s.params.artCap → (∀ x ∈ syms, x < s.params.nsym ∧ s.codeAt x ≠ []) →
    syms.length ≤ s.params.dtextCap →
    unpack (s.artBytes s.artLen.toNat) = .ok (h, syms.flatMap s.codeAt) →
    ∃ d : Table Symbol,
      exec .decode s = .next { s with
        mem := { s.mem with dtext := d }
        dtextLen := BitVec.ofNat 32 syms.length
        rawBits := BitVec.ofNat 32 (syms.flatMap s.codeAt).length
        pad := h.setWidth 4
        result := 0, errInfo := 0, cmdLatch := none } ∧
      d.epoch = s.mem.dtext.epoch ∧
      (∀ k < syms.length, d.read k = some (BitVec.ofNat 10 (syms.getD k 0))) ∧
      (∀ k, syms.length ≤ k → d.read k = s.mem.dtext.read k)

/-- R213, dead ends: a 1 bit with a single-leaf tree, after `j` 0 bits that fit DTEXT, fails at bit `j`; any payload bit
with an EMPTY table fails at bit 0. -/
def Obligations.DecodeDeadEnds : Prop :=
  ∀ (s : State) (h : Byte) (rest : Bits), s.artLen.toNat ≤ s.params.artCap →
    (∀ j, s.tableState = .ready → s.leaves = 1 → j ≤ s.params.dtextCap →
      unpack (s.artBytes s.artLen.toNat) = .ok (h, List.replicate j false ++ true :: rest) →
      ∃ t, exec .decode s = .next t ∧ t.result = 0x08 ∧ t.errInfo = BitVec.ofNat 32 j) ∧
    (∀ b, s.tableState = .empty → unpack (s.artBytes s.artLen.toNat) = .ok (h, b :: rest) →
      ∃ t, exec .decode s = .next t ∧ t.result = 0x08 ∧ t.errInfo = 0)

/-- R213, residual: with two leaves or more, a payload that ends inside a code fails with bit 31 and the payload
length. -/
def Obligations.DecodeResidual : Prop :=
  ∀ (s : State) (h : Byte) (syms : List Nat) (residual : Bits) (n : Nat),
    s.Inv → s.tableState = .ready → 2 ≤ s.leafCount → s.artLen.toNat ≤ s.params.artCap →
    (∀ x ∈ syms, x < s.params.nsym ∧ s.codeAt x ≠ []) → syms.length ≤ s.params.dtextCap →
    residual ≠ [] → s.walk s.root.toNat residual = some n → s.isLeafAt n = false →
    unpack (s.artBytes s.artLen.toNat) = .ok (h, syms.flatMap s.codeAt ++ residual) →
    ∃ t, exec .decode s = .next t ∧ t.result = 0x08 ∧
      t.errInfo = BitVec.ofNat 32 (2 ^ 31 + (syms.flatMap s.codeAt ++ residual).length)

/-- R215: the symbol that does not fit DTEXT fails DECODE with DTEXT_OVERFLOW and the index of its last bit, whatever
follows it in the payload. -/
def Obligations.DecodeOverflow : Prop :=
  ∀ (s : State) (h : Byte) (syms : List Nat) (rest : Bits), s.Inv → s.tableState = .ready →
    s.artLen.toNat ≤ s.params.artCap → (∀ x ∈ syms, x < s.params.nsym ∧ s.codeAt x ≠ []) →
    syms.length = s.params.dtextCap + 1 →
    unpack (s.artBytes s.artLen.toNat) = .ok (h, syms.flatMap s.codeAt ++ rest) →
    ∃ t, exec .decode s = .next t ∧ t.result = 0x09 ∧
      t.errInfo = BitVec.ofNat 32 ((syms.flatMap s.codeAt).length - 1)

/-- R214: on every artifact that passes `Unpack` and whose text fits DTEXT, DECODE succeeds exactly when the source's
accumulator ends empty, and then with the same symbols; else it fails with CORRUPT_MATCH. -/
def Obligations.DecodeMatchesAccumulator : Prop :=
  ∀ (s : State) (h : Byte) (payload : Bits), s.Inv → s.tableState ≠ .none →
    s.artLen.toNat ≤ s.params.artCap → unpack (s.artBytes s.artLen.toNat) = .ok (h, payload) →
    (s.accumulate payload [] []).2.length ≤ s.params.dtextCap →
    ((s.accumulate payload [] []).1 = [] → ∃ t, exec .decode s = .next t ∧ t.result = 0 ∧
      t.dtextLen.toNat = (s.accumulate payload [] []).2.length ∧
      ∀ k < t.dtextLen.toNat, (t.dtextAt k).toNat = (s.accumulate payload [] []).2.getD k 0) ∧
    ((s.accumulate payload [] []).1 ≠ [] → ∃ t, exec .decode s = .next t ∧ t.result = 0x08)

/-- The frame of DECODE over every outcome (R216): only DTEXT, DTEXT_LEN, RAW_BITS, PAD and the completion registers
change; on an error the three lengths are 0. (`draws` is the model's own.) -/
def Obligations.DecodeChangesOnlyItsOutputs : Prop :=
  ∀ s t : State, exec .decode s = .next t →
    t = { s with
      mem := { s.mem with dtext := t.mem.dtext }, draws := t.draws
      dtextLen := t.dtextLen, rawBits := t.rawBits, pad := t.pad
      result := t.result, errInfo := t.errInfo, err := s.err || t.result != 0, cmdLatch := none } ∧
    (t.result ≠ 0 → t.dtextLen = 0 ∧ t.rawBits = 0 ∧ t.pad = 0)

/-- R196: a successful ENCODE, then only NOP and CLRERR, then DECODE gives the text back. -/
def Obligations.EncodeDecodeRoundTrip : Prop :=
  ∀ (s t u : State) (between : List Instr), s.Inv → exec .encode s = .next t → t.result = 0 →
    (∀ i ∈ between, i = .nop ∨ i = .clrerr) → execAll between t = .next u →
    s.textLen.toNat ≤ s.params.dtextCap →
    ∃ w, exec .decode u = .next w ∧ w.result = 0 ∧ w.dtextLen = s.textLen ∧
      ∀ i < s.textLen.toNat, w.dtextAt i = s.textAt i

/-! ## Errors and completion (60_exceptions.md) -/

/-- R111: every command ends, from every state, and empties CMD_LATCH; and no step of any agent stops the machine. -/
def Obligations.EveryCommandCompletes : Prop :=
  (∀ (i : Instr) (s : State), ∃ t, exec i s = .next t ∧ t.cmdLatch = none) ∧
  (∀ s : State, Safe (step s))

/-- R112, R234: RESULT is 0 or one of the codes of R230, a success leaves ERR_INFO = 0, and STATUS.ERR becomes 1 with an
error and otherwise stays, except that CLEAR and CLRERR clear it. -/
def Obligations.ErrorsAreReportedAndSticky : Prop :=
  ∀ (i : Instr) (s t : State), exec i s = .next t →
    t.result.toNat ≤ 0x09 ∧ (t.result = 0 → t.errInfo = 0) ∧
    (i ≠ .clear → i ≠ .clrerr → t.err = (s.err || t.result != 0)) ∧
    (i = .clear ∨ i = .clrerr → t.err = false ∧ t.overrun = false ∧ t.result = 0) ∧
    (i ≠ .clear → i ≠ .clrerr → t.overrun = s.overrun)

/-- R37 to R42: among commands only CLRFREQ writes FREQ, only BUILD_TREE NODE, only GEN_TABLE CODE, none TEXT, only
ENCODE ART and only DECODE DTEXT; the parameters never change. -/
def Obligations.EachTableHasOneWriter : Prop :=
  ∀ (i : Instr) (s t : State), exec i s = .next t →
    (i ≠ .clrfreq → t.mem.freq = s.mem.freq) ∧ (i ≠ .buildTree → t.mem.node = s.mem.node) ∧
    (i ≠ .genTable → t.mem.code = s.mem.code) ∧ t.mem.text = s.mem.text ∧
    (i ≠ .encode → t.mem.art = s.mem.art) ∧ (i ≠ .decode → t.mem.dtext = s.mem.dtext) ∧
    t.params = s.params ∧ (i ≠ .clear → t.textLen = s.textLen)

/-- Weak fairness of the core step (R111; the schedule is the model's, notes/assumptions/2.md): from every state, after
at most three steps for each scheduled move and one more, no command is latched and no move is left. -/
def Obligations.LatchedCommandFinishes : Prop :=
  ∀ s : State, ∃ t, core.run (3 * s.agenda.length + 1) s = .next t ∧ t.cmdLatch = none ∧ t.agenda = []

/-! ## Host bus (20_memory.md) -/

/-- R63, R66: what a read of each register's address returns while BUSY = 0. -/
def Obligations.RegisterReads : Prop :=
  ∀ s : State, s.params.legal = true →
    s.memRead 0x00#22 = 0x48554631#32 ∧
    s.memRead 0x04#22 = BitVec.ofNat 32 (s.params.symW + 256 * s.params.freqW) ∧
    s.memRead 0x08#22 = BitVec.ofNat 32 s.params.textCap ∧
    s.memRead 0x0C#22 = BitVec.ofNat 32 s.params.artCap ∧
    s.memRead 0x10#22 = BitVec.ofNat 32 s.params.dtextCap ∧
    s.memRead 0x20#22 = 0 ∧ s.memRead 0x24#22 = s.statusWord ∧
    (s.memRead 0x28#22).toNat = s.result.toNat ∧ s.memRead 0x2C#22 = s.errInfo ∧
    s.memRead 0x30#22 = s.textLen ∧ s.memRead 0x34#22 = s.artLen ∧
    s.memRead 0x38#22 = s.dtextLen ∧ s.memRead 0x3C#22 = s.rawBits ∧
    (s.memRead 0x40#22).toNat = s.pad.toNat ∧ (s.memRead 0x44#22).toNat = s.leaves.toNat ∧
    (s.memRead 0x48#22).toNat = s.nodeCount.toNat ∧ (s.memRead 0x4C#22).toNat = s.root.toNat

/-- R24, R25, R43: the fields of STATUS, BUSY being 1 exactly when CMD_LATCH is full. -/
def Obligations.StatusFields : Prop :=
  ∀ s : State, s.statusWord.toNat =
    s.cmdLatch.isSome.toNat + 2 * s.err.toNat + 4 * s.overrun.toNat
      + 16 * (if s.treeState = .built then 2 else if s.treeState = .empty then 1 else 0)
      + 64 * (if s.tableState = .ready then 2 else if s.tableState = .empty then 1 else 0)

/-- R62, R63: the entry addresses of the six windows, and no address that reaches an entry is another one (but for its
bits [1:0], R61); an address reaches a register exactly when it is that register's offset; and an address is unmapped
exactly when it is neither a register's nor an entry's. -/
def Obligations.AddressMap : Prop :=
  ∀ P : Params, P.legal = true →
    (∀ i < P.nsym, target P (BitVec.ofNat 22 (0x001000 + 4 * i)) = .freq i) ∧
    (∀ n < P.nodeMax, ∀ w < 4, target P (BitVec.ofNat 22 (0x010000 + 16 * n + 4 * w)) = .node n w) ∧
    (∀ i < P.nsym, ∀ k < 64, target P (BitVec.ofNat 22 (0x040000 + 256 * i + 4 * k)) = .code i k) ∧
    (∀ i < P.textCap, target P (BitVec.ofNat 22 (0x100000 + 4 * i)) = .text i) ∧
    (∀ k < P.artCap, target P (BitVec.ofNat 22 (0x200000 + 4 * k)) = .art k) ∧
    (∀ i < P.dtextCap, target P (BitVec.ofNat 22 (0x300000 + 4 * i)) = .dtext i) ∧
    ∀ a : Addr,
      (∀ i, target P a = .freq i → i < P.nsym ∧ a.toNat / 4 * 4 = 0x001000 + 4 * i) ∧
      (∀ n w, target P a = .node n w →
        n < P.nodeMax ∧ w < 4 ∧ a.toNat / 4 * 4 = 0x010000 + 16 * n + 4 * w) ∧
      (∀ i k, target P a = .code i k →
        i < P.nsym ∧ k < 64 ∧ a.toNat / 4 * 4 = 0x040000 + 256 * i + 4 * k) ∧
      (∀ i, target P a = .text i → i < P.textCap ∧ a.toNat / 4 * 4 = 0x100000 + 4 * i) ∧
      (∀ k, target P a = .art k → k < P.artCap ∧ a.toNat / 4 * 4 = 0x200000 + 4 * k) ∧
      (∀ i, target P a = .dtext i → i < P.dtextCap ∧ a.toNat / 4 * 4 = 0x300000 + 4 * i) ∧
      (∀ r, target P a = .reg r ↔ a.toNat / 4 * 4 = registerOffset r) ∧
      (target P a = .unmapped ↔
        (∀ r, a.toNat / 4 * 4 ≠ registerOffset r) ∧
        (∀ i < P.nsym, a.toNat / 4 * 4 ≠ 0x001000 + 4 * i) ∧
        (∀ n < P.nodeMax, ∀ w < 4, a.toNat / 4 * 4 ≠ 0x010000 + 16 * n + 4 * w) ∧
        (∀ i < P.nsym, ∀ k < 64, a.toNat / 4 * 4 ≠ 0x040000 + 256 * i + 4 * k) ∧
        (∀ i < P.textCap, a.toNat / 4 * 4 ≠ 0x100000 + 4 * i) ∧
        (∀ k < P.artCap, a.toNat / 4 * 4 ≠ 0x200000 + 4 * k) ∧
        (∀ i < P.dtextCap, a.toNat / 4 * 4 ≠ 0x300000 + 4 * i))

/-- R61: address bits [1:0] are ignored by reads and by writes. -/
def Obligations.LowAddressBitsIgnored : Prop :=
  ∀ (s : State) (a b : Addr) (v : Word), a.toNat / 4 = b.toNat / 4 →
    hostRead a s = hostRead b s ∧ hostWrite a v s = hostWrite b v s

/-- R65, R67, R69: a read of an unmapped address returns 0, and a write to an unmapped address, to a read-only register or
to the NODE, CODE or DTEXT window has no effect while BUSY = 0. -/
def Obligations.IgnoredAccesses : Prop :=
  ∀ (s : State) (a : Addr) (v : Word),
    (target s.params a = .unmapped → s.busAnswer a = 0) ∧
    (s.cmdLatch = none →
      (target s.params a = .unmapped ∨ (∃ n w, target s.params a = .node n w) ∨
        (∃ i k, target s.params a = .code i k) ∨ (∃ i, target s.params a = .dtext i) ∨
        (∃ r, target s.params a = .reg r ∧ r ≠ .cmd ∧ r ≠ .textLen ∧ r ≠ .artLen)) →
      hostWrite a v s = s)

/-- R64, R67: while BUSY = 0 a write to an entry of FREQ, TEXT or ART stores the low bits that fit, a read returns them
zero-extended, and every other entry reads as before; TEXT_LEN and ART_LEN hold all 32 bits; nothing else changes. -/
def Obligations.EntryWriteThenRead : Prop :=
  ∀ (s : State) (a : Addr) (v : Word), s.params.legal = true → s.cmdLatch = none →
    (∀ i, target s.params a = .freq i → ∃ f : Table Word,
      hostWrite a v s = { s with mem := { s.mem with freq := f } } ∧ f.epoch = s.mem.freq.epoch ∧
      ((hostWrite a v s).memRead a).toNat = v.toNat % 2 ^ s.params.freqW ∧
      ∀ j, j ≠ i → f.read j = s.mem.freq.read j) ∧
    (∀ i, target s.params a = .text i → ∃ x : Table Symbol,
      hostWrite a v s = { s with mem := { s.mem with text := x } } ∧ x.epoch = s.mem.text.epoch ∧
      ((hostWrite a v s).memRead a).toNat = v.toNat % 2 ^ s.params.symW ∧
      ∀ j, j ≠ i → x.read j = s.mem.text.read j) ∧
    (∀ k, target s.params a = .art k → ∃ x : Table Byte,
      hostWrite a v s = { s with mem := { s.mem with art := x } } ∧ x.epoch = s.mem.art.epoch ∧
      ((hostWrite a v s).memRead a).toNat = v.toNat % 2 ^ 8 ∧
      ∀ j, j ≠ k → x.read j = s.mem.art.read j) ∧
    (target s.params a = .reg .textLen → hostWrite a v s = { s with textLen := v }) ∧
    (target s.params a = .reg .artLen → hostWrite a v s = { s with artLen := v })

/-- R72, R73: while BUSY = 1 every write is dropped and sets OVERRUN, and ID, the PARAM registers, STATUS and unmapped
addresses still read what R66 gives. -/
def Obligations.AccessWhileBusy : Prop :=
  ∀ (s : State) (a : Addr) (v w : Word), s.cmdLatch = some w →
    hostWrite a v s = { s with overrun := true } ∧
    (target s.params a = .unmapped → s.busAnswer a = 0) ∧
    (∀ r, target s.params a = .reg r →
      r = .id ∨ r = .param0 ∨ r = .paramTextCap ∨ r = .paramArtCap ∨ r = .paramDtextCap ∨ r = .status →
      s.busAnswer a = s.readReg r)

/-- R68: a host read has no side effect on HUFF1: beside the host's log and the draw counter (the model's own) nothing
changes, whether BUSY is 0 or 1. -/
def Obligations.HostReadChangesNothing : Prop :=
  ∀ (s : State) (a : Addr), ∃ (answer : Word) (d : Nat),
    hostRead a s = { s with busLog := answer :: s.busLog, draws := d } ∧
    (s.cmdLatch = none → answer = s.memRead a ∧ d = s.draws)

/-- R71: a write of `v` to CMD while BUSY = 0 puts `v` in CMD_LATCH and sets BUSY in the same access, and nothing else;
while BUSY = 1 it is lost and only OVERRUN shows it (R72, R271). -/
def Obligations.CmdWriteLatches : Prop :=
  ∀ (s : State) (v : Word) (rest : List Move), s.agenda = .write 0x20#22 v :: rest →
    (s.cmdLatch = none →
      step s = .next { s with agenda := rest, cmdLatch := some v } ∧
      (State.statusWord { s with agenda := rest, cmdLatch := some v }).getLsbD 0 = true) ∧
    (∀ w, s.cmdLatch = some w → step s = .next { s with agenda := rest, overrun := true })

/-- R38, R39, R42, R66: what the NODE, CODE and DTEXT windows show: 0 for an invalid entry, else the entry's words, code
bit `32(k-1)+j` being bit `31-j` of word `k`. -/
def Obligations.TableWindowReads : Prop :=
  ∀ (s : State) (a : Addr),
    (∀ n w, target s.params a = .node n w →
      (s.treeState ≠ .built ∨ s.nodeCount.toNat ≤ n → s.memRead a = 0) ∧
      (s.treeState = .built → n < s.nodeCount.toNat → (s.memRead a).toNat =
        if w = 0 then s.weightAt n
        else if w = 1 then 2 ^ 31 * (s.isLeafAt n).toNat + s.symbolAt n
        else if w = 2 then s.leftAt n
        else if w = 3 then s.rightAt n else 0)) ∧
    (∀ i k, target s.params a = .code i k →
      (s.tableState = .none → s.memRead a = 0) ∧
      (s.tableState ≠ .none →
        (k = 0 → (s.memRead a).toNat = s.clen i % 2 ^ 11) ∧
        (1 ≤ k → k ≤ 32 → ∀ j < 32,
          (s.memRead a).getLsbD (31 - j) = (s.codeAt i).getD (32 * (k - 1) + j) false) ∧
        (33 ≤ k → s.memRead a = 0))) ∧
    (∀ i, target s.params a = .dtext i →
      (s.dtextLen.toNat ≤ i → s.memRead a = 0) ∧
      (i < s.dtextLen.toNat → (s.memRead a).toNat = (s.dtextAt i).toNat))

/-! ## Reset, ordering and invariants (70_reset_and_hazards.md, 10_state.md) -/

/-- R260, R262: when reset is released every register is at its reset value and CMD_LATCH is empty, whatever ran before;
the parameters stay. -/
def Obligations.ResetPutsRegistersAtResetValues : Prop :=
  ∀ (s : State) (rest : List Move), s.agenda = .reset :: rest →
    ∃ t, step s = .next t ∧ t.params = s.params ∧ t.statusWord = 0 ∧
      t.err = false ∧ t.overrun = false ∧ t.treeState = .none ∧ t.tableState = .none ∧
      t.result = 0 ∧ t.errInfo = 0 ∧ t.textLen = 0 ∧ t.artLen = 0 ∧ t.dtextLen = 0 ∧
      t.rawBits = 0 ∧ t.pad = 0 ∧ t.leaves = 0 ∧ t.nodeCount = 0 ∧ t.root = 0 ∧ t.cmdLatch = none

/-- R75: any number of STATUS reads between a CMD write and its core step changes no result: the machine ends as if the
core had stepped at once, but for what the host has read. -/
def Obligations.StatusPollsDoNotMatter : Prop :=
  ∀ (n : Nat) (s : State) (rest : List Move), s.cmdLatch.isSome = true →
    s.agenda = List.replicate n (.read 0x24#22) ++ .core :: rest →
    ∃ t, step { s with agenda := .core :: rest } = .next t ∧
      core.run (n + 1) s =
        .next { t with busLog := List.replicate n s.statusWord ++ s.busLog } ∧
      t.busLog = s.busLog

/-- The memory stays canonical: every step of every agent keeps each table's listed indices rising (the model's form of
memory, notes/assumptions/5.md). -/
def Obligations.StepKeepsMemoryCanonical : Prop :=
  ∀ s t : State, s.mem.wf → step s = .next t → t.mem.wf

/-- R45 and R46 hold after every step, with legal parameters, canonical memory and fitting entries: every step of every
agent, from every state that meets the invariant, gives a state that meets it. -/
def Obligations.StepKeepsTreeAndTableConsistent : Prop :=
  ∀ s t : State, s.Inv → step s = .next t → t.Inv

/-- A machine with legal parameters meets the invariant right after reset. -/
def Obligations.ResetMeetsInvariant : Prop :=
  (∀ P : Params, P.legal = true → (State.resetWith P).Inv) ∧ State.reset.Inv
end

