-- ==== Sys2Proof/Laws/Memory.lean ====
section
/-! SUPPORT. What the table operations do: read after write, what a write leaves, and that every operation keeps the
canonical form. -/

namespace Sys2Proof.Machine

variable {α : Type}

theorem lookupCell_insertCell (i j : Nat) (v : α) (cells : List (Nat × α)) :
    lookupCell j (insertCell i v cells) = if j = i then some v else lookupCell j cells := by
  induction cells with
  | nil => simp [insertCell, lookupCell]
  | cons c rest ih =>
    obtain ⟨k, w⟩ := c
    unfold insertCell
    split
    · simp [lookupCell]
    · split
      · subst_vars
        by_cases h : j = k <;> simp [lookupCell, h]
      · simp only [lookupCell, ih]
        by_cases h : j = k
        · subst h; simp; omega
        · simp [h]

theorem mem_insertCell {i : Nat} {v : α} {c : Nat × α} {cells : List (Nat × α)}
    (h : c ∈ insertCell i v cells) : c = (i, v) ∨ c ∈ cells := by
  induction cells with
  | nil => simpa [insertCell] using h
  | cons d rest ih =>
    obtain ⟨k, w⟩ := d
    unfold insertCell at h
    split at h
    · simpa using h
    · split at h
      · rcases List.mem_cons.1 h with h | h
        · exact .inl h
        · exact .inr (List.mem_cons_of_mem _ h)
      · rcases List.mem_cons.1 h with h | h
        · exact .inr (h ▸ List.mem_cons_self)
        · exact (ih h).imp_right (List.mem_cons_of_mem _)

theorem insertCell_pairwise {i : Nat} {v : α} {cells : List (Nat × α)}
    (h : (cells.map Prod.fst).Pairwise (· < ·)) :
    ((insertCell i v cells).map Prod.fst).Pairwise (· < ·) := by
  induction cells with
  | nil => simp [insertCell]
  | cons d rest ih =>
    obtain ⟨k, w⟩ := d
    obtain ⟨hk, hrest⟩ := List.pairwise_cons.1 h
    unfold insertCell
    split
    case isTrue hik =>
      refine List.pairwise_cons.2 ⟨?_, h⟩
      intro a ha
      rcases List.mem_cons.1 ha with ha | ha
      · exact ha ▸ hik
      · exact Nat.lt_trans hik (hk a ha)
    case isFalse hik =>
      split
      case isTrue he => subst he; exact h
      case isFalse hne =>
        refine List.pairwise_cons.2 ⟨?_, ih hrest⟩
        intro a ha
        obtain ⟨c, hc, rfl⟩ := List.mem_map.1 ha
        rcases mem_insertCell hc with rfl | hc
        · show k < i; omega
        · exact hk _ (List.mem_map.2 ⟨c, hc, rfl⟩)

@[simp] theorem Table.read_unwritten (d i : Nat) : (Table.unwritten d : Table α).read i = none := rfl

@[simp] theorem Table.write_epoch (t : Table α) (i : Nat) (v : α) : (t.write i v).epoch = t.epoch := rfl

theorem Table.read_write (t : Table α) (i j : Nat) (v : α) :
    (t.write i v).read j = if j = i then some v else t.read j :=
  lookupCell_insertCell i j v t.cells

@[simp] theorem Table.read_write_self (t : Table α) (i : Nat) (v : α) : (t.write i v).read i = some v := by
  simp [Table.read_write]

theorem Table.read_write_of_ne (t : Table α) {i j : Nat} (v : α) (h : j ≠ i) :
    (t.write i v).read j = t.read j := by
  simp [Table.read_write, h]

theorem Table.wf_write {t : Table α} (h : t.wf) (i : Nat) (v : α) : (t.write i v).wf :=
  insertCell_pairwise h

theorem Table.mem_write {t : Table α} {i : Nat} {v : α} {c : Nat × α} (h : c ∈ (t.write i v).cells) :
    c = (i, v) ∨ c ∈ t.cells :=
  mem_insertCell h

theorem Table.wf_unwritten (d : Nat) : (Table.unwritten d : Table α).wf := List.Pairwise.nil

@[simp] theorem Table.writeList_epoch (vs : List α) (k : Nat) (t : Table α) :
    (t.writeList k vs).epoch = t.epoch := by
  induction vs generalizing k t with
  | nil => rfl
  | cons v vs ih => exact ih (k + 1) (t.write k v)

theorem Table.wf_writeList {t : Table α} (h : t.wf) (k : Nat) (vs : List α) : (t.writeList k vs).wf := by
  induction vs generalizing k t with
  | nil => exact h
  | cons v vs ih => exact ih (Table.wf_write h k v) (k + 1)

/-- Everything `writeList` does to a read: the entries from `k` on hold the list, every other entry is as before. -/
theorem Table.read_writeList (vs : List α) (k j : Nat) (t : Table α) :
    (t.writeList k vs).read j =
      if k ≤ j ∧ j < k + vs.length then vs[j - k]? else t.read j := by
  induction vs generalizing k t with
  | nil => simp only [Table.writeList, List.length_nil]; rw [if_neg (by omega)]
  | cons v vs ih =>
    simp only [Table.writeList, List.length_cons]
    rw [ih, Table.read_write]
    by_cases h : j = k
    · subst h; rw [if_neg (by omega), if_pos rfl, if_pos (by omega)]; simp
    · rw [if_neg h]
      by_cases h2 : k + 1 ≤ j ∧ j < k + 1 + vs.length
      · rw [if_pos h2, if_pos (by omega)]
        obtain ⟨m, rfl⟩ : ∃ m, j = k + 1 + m := ⟨j - (k + 1), by omega⟩
        rw [show k + 1 + m - (k + 1) = m by omega, show k + 1 + m - k = m + 1 by omega]
        simp
      · rw [if_neg h2, if_neg (by omega)]

/-- Every cell of a table after `writeList` is a written one, below `k + vs.length`, or an old one. -/
theorem Table.mem_writeList {vs : List α} {k : Nat} {t : Table α} {c : Nat × α}
    (h : c ∈ (t.writeList k vs).cells) :
    (k ≤ c.1 ∧ c.1 < k + vs.length ∧ c.2 ∈ vs) ∨ c ∈ t.cells := by
  induction vs generalizing k t with
  | nil => exact .inr h
  | cons v vs ih =>
    rcases ih h with ⟨h1, h2, h3⟩ | h
    · exact .inl ⟨by omega, by simp only [List.length_cons]; omega, List.mem_cons_of_mem _ h3⟩
    · rcases Table.mem_write h with rfl | h
      · exact .inl ⟨Nat.le_refl _, by simp only [List.length_cons]; omega, List.mem_cons_self⟩
      · exact .inr h

@[simp] theorem Table.fill_epoch (t : Table α) (n : Nat) (v : α) : (t.fill n v).epoch = t.epoch :=
  Table.writeList_epoch _ _ _

theorem Table.wf_fill {t : Table α} (h : t.wf) (n : Nat) (v : α) : (t.fill n v).wf :=
  Table.wf_writeList h _ _

theorem Table.read_fill (t : Table α) (n j : Nat) (v : α) :
    (t.fill n v).read j = if j < n then some v else t.read j := by
  rw [Table.fill, Table.read_writeList]
  by_cases h : j < n
  · rw [if_pos (by simpa using h), if_pos h]; simp [h]
  · rw [if_neg (by simpa using h), if_neg h]

theorem Table.mem_fill {t : Table α} {n : Nat} {v : α} {c : Nat × α} (h : c ∈ (t.fill n v).cells) :
    (c.1 < n ∧ c.2 = v) ∨ c ∈ t.cells := by
  rcases Table.mem_writeList h with ⟨_, h2, h3⟩ | h
  · exact .inl ⟨by simpa using h2, (List.mem_replicate.1 h3).2⟩
  · exact .inr h

theorem Memory.wf_unwritten (d : Nat) : (Memory.unwritten d).wf :=
  ⟨Table.wf_unwritten d, Table.wf_unwritten d, Table.wf_unwritten d, Table.wf_unwritten d,
    Table.wf_unwritten d, Table.wf_unwritten d⟩

theorem State.reset_mem_wf : State.reset.mem.wf := Memory.wf_unwritten 0

end Sys2Proof.Machine
end

