-- ==== Sys2Proof/Laws/State.lean ====
section
/-! SUPPORT. One lemma per field per named update of the state, and what each operand accessor depends on, so that no
later proof unfolds a record update. -/

namespace Sys2Proof.Machine

@[simp] theorem State.complete_eq_finish (s : State) : s.complete = s.finish 0 0 := rfl

@[simp] theorem State.raise_eq_finish (f : Failure) (s : State) : s.raise f = s.finish f.code.code f.info := rfl

@[simp] theorem State.finish_params (c : BitVec 8) (x : Word) (s : State) :
    (s.finish c x).params = s.params := rfl
@[simp] theorem State.finish_err (c : BitVec 8) (x : Word) (s : State) :
    (s.finish c x).err = (s.err || c != 0) := rfl
@[simp] theorem State.finish_overrun (c : BitVec 8) (x : Word) (s : State) :
    (s.finish c x).overrun = s.overrun := rfl
@[simp] theorem State.finish_treeState (c : BitVec 8) (x : Word) (s : State) :
    (s.finish c x).treeState = s.treeState := rfl
@[simp] theorem State.finish_tableState (c : BitVec 8) (x : Word) (s : State) :
    (s.finish c x).tableState = s.tableState := rfl
@[simp] theorem State.finish_result (c : BitVec 8) (x : Word) (s : State) :
    (s.finish c x).result = c := rfl
@[simp] theorem State.finish_errInfo (c : BitVec 8) (x : Word) (s : State) :
    (s.finish c x).errInfo = x := rfl
@[simp] theorem State.finish_textLen (c : BitVec 8) (x : Word) (s : State) :
    (s.finish c x).textLen = s.textLen := rfl
@[simp] theorem State.finish_artLen (c : BitVec 8) (x : Word) (s : State) :
    (s.finish c x).artLen = s.artLen := rfl
@[simp] theorem State.finish_dtextLen (c : BitVec 8) (x : Word) (s : State) :
    (s.finish c x).dtextLen = s.dtextLen := rfl
@[simp] theorem State.finish_rawBits (c : BitVec 8) (x : Word) (s : State) :
    (s.finish c x).rawBits = s.rawBits := rfl
@[simp] theorem State.finish_pad (c : BitVec 8) (x : Word) (s : State) :
    (s.finish c x).pad = s.pad := rfl
@[simp] theorem State.finish_leaves (c : BitVec 8) (x : Word) (s : State) :
    (s.finish c x).leaves = s.leaves := rfl
@[simp] theorem State.finish_nodeCount (c : BitVec 8) (x : Word) (s : State) :
    (s.finish c x).nodeCount = s.nodeCount := rfl
@[simp] theorem State.finish_root (c : BitVec 8) (x : Word) (s : State) :
    (s.finish c x).root = s.root := rfl
@[simp] theorem State.finish_mem (c : BitVec 8) (x : Word) (s : State) :
    (s.finish c x).mem = s.mem := rfl
@[simp] theorem State.finish_cmdLatch (c : BitVec 8) (x : Word) (s : State) :
    (s.finish c x).cmdLatch = none := rfl
@[simp] theorem State.finish_agenda (c : BitVec 8) (x : Word) (s : State) :
    (s.finish c x).agenda = s.agenda := rfl
@[simp] theorem State.finish_busLog (c : BitVec 8) (x : Word) (s : State) :
    (s.finish c x).busLog = s.busLog := rfl
@[simp] theorem State.finish_checksOk (c : BitVec 8) (x : Word) (s : State) :
    (s.finish c x).checksOk = s.checksOk := rfl
@[simp] theorem State.finish_draws (c : BitVec 8) (x : Word) (s : State) :
    (s.finish c x).draws = s.draws := rfl

@[simp] theorem State.encodeErrorEffects_params (s : State) :
    (s.encodeErrorEffects).params = s.params := rfl
@[simp] theorem State.encodeErrorEffects_err (s : State) :
    (s.encodeErrorEffects).err = s.err := rfl
@[simp] theorem State.encodeErrorEffects_overrun (s : State) :
    (s.encodeErrorEffects).overrun = s.overrun := rfl
@[simp] theorem State.encodeErrorEffects_treeState (s : State) :
    (s.encodeErrorEffects).treeState = s.treeState := rfl
@[simp] theorem State.encodeErrorEffects_tableState (s : State) :
    (s.encodeErrorEffects).tableState = s.tableState := rfl
@[simp] theorem State.encodeErrorEffects_result (s : State) :
    (s.encodeErrorEffects).result = s.result := rfl
@[simp] theorem State.encodeErrorEffects_errInfo (s : State) :
    (s.encodeErrorEffects).errInfo = s.errInfo := rfl
@[simp] theorem State.encodeErrorEffects_textLen (s : State) :
    (s.encodeErrorEffects).textLen = s.textLen := rfl
@[simp] theorem State.encodeErrorEffects_artLen (s : State) :
    (s.encodeErrorEffects).artLen = 0 := rfl
@[simp] theorem State.encodeErrorEffects_dtextLen (s : State) :
    (s.encodeErrorEffects).dtextLen = s.dtextLen := rfl
@[simp] theorem State.encodeErrorEffects_rawBits (s : State) :
    (s.encodeErrorEffects).rawBits = 0 := rfl
@[simp] theorem State.encodeErrorEffects_pad (s : State) :
    (s.encodeErrorEffects).pad = 0 := rfl
@[simp] theorem State.encodeErrorEffects_leaves (s : State) :
    (s.encodeErrorEffects).leaves = s.leaves := rfl
@[simp] theorem State.encodeErrorEffects_nodeCount (s : State) :
    (s.encodeErrorEffects).nodeCount = s.nodeCount := rfl
@[simp] theorem State.encodeErrorEffects_root (s : State) :
    (s.encodeErrorEffects).root = s.root := rfl
@[simp] theorem State.encodeErrorEffects_mem (s : State) :
    (s.encodeErrorEffects).mem = s.mem := rfl
@[simp] theorem State.encodeErrorEffects_cmdLatch (s : State) :
    (s.encodeErrorEffects).cmdLatch = s.cmdLatch := rfl
@[simp] theorem State.encodeErrorEffects_agenda (s : State) :
    (s.encodeErrorEffects).agenda = s.agenda := rfl
@[simp] theorem State.encodeErrorEffects_busLog (s : State) :
    (s.encodeErrorEffects).busLog = s.busLog := rfl
@[simp] theorem State.encodeErrorEffects_checksOk (s : State) :
    (s.encodeErrorEffects).checksOk = s.checksOk := rfl
@[simp] theorem State.encodeErrorEffects_draws (s : State) :
    (s.encodeErrorEffects).draws = s.draws := rfl

@[simp] theorem State.forgetArt_params (s : State) :
    (s.forgetArt).params = s.params := rfl
@[simp] theorem State.forgetArt_err (s : State) :
    (s.forgetArt).err = s.err := rfl
@[simp] theorem State.forgetArt_overrun (s : State) :
    (s.forgetArt).overrun = s.overrun := rfl
@[simp] theorem State.forgetArt_treeState (s : State) :
    (s.forgetArt).treeState = s.treeState := rfl
@[simp] theorem State.forgetArt_tableState (s : State) :
    (s.forgetArt).tableState = s.tableState := rfl
@[simp] theorem State.forgetArt_result (s : State) :
    (s.forgetArt).result = s.result := rfl
@[simp] theorem State.forgetArt_errInfo (s : State) :
    (s.forgetArt).errInfo = s.errInfo := rfl
@[simp] theorem State.forgetArt_textLen (s : State) :
    (s.forgetArt).textLen = s.textLen := rfl
@[simp] theorem State.forgetArt_artLen (s : State) :
    (s.forgetArt).artLen = s.artLen := rfl
@[simp] theorem State.forgetArt_dtextLen (s : State) :
    (s.forgetArt).dtextLen = s.dtextLen := rfl
@[simp] theorem State.forgetArt_rawBits (s : State) :
    (s.forgetArt).rawBits = s.rawBits := rfl
@[simp] theorem State.forgetArt_pad (s : State) :
    (s.forgetArt).pad = s.pad := rfl
@[simp] theorem State.forgetArt_leaves (s : State) :
    (s.forgetArt).leaves = s.leaves := rfl
@[simp] theorem State.forgetArt_nodeCount (s : State) :
    (s.forgetArt).nodeCount = s.nodeCount := rfl
@[simp] theorem State.forgetArt_root (s : State) :
    (s.forgetArt).root = s.root := rfl
@[simp] theorem State.forgetArt_mem (s : State) :
    (s.forgetArt).mem = { s.mem with art := Table.unwritten s.draws } := rfl
@[simp] theorem State.forgetArt_cmdLatch (s : State) :
    (s.forgetArt).cmdLatch = s.cmdLatch := rfl
@[simp] theorem State.forgetArt_agenda (s : State) :
    (s.forgetArt).agenda = s.agenda := rfl
@[simp] theorem State.forgetArt_busLog (s : State) :
    (s.forgetArt).busLog = s.busLog := rfl
@[simp] theorem State.forgetArt_checksOk (s : State) :
    (s.forgetArt).checksOk = s.checksOk := rfl
@[simp] theorem State.forgetArt_draws (s : State) :
    (s.forgetArt).draws = s.draws + 1 := rfl

@[simp] theorem State.decodeErrorEffects_params (s : State) :
    (s.decodeErrorEffects).params = s.params := rfl
@[simp] theorem State.decodeErrorEffects_err (s : State) :
    (s.decodeErrorEffects).err = s.err := rfl
@[simp] theorem State.decodeErrorEffects_overrun (s : State) :
    (s.decodeErrorEffects).overrun = s.overrun := rfl
@[simp] theorem State.decodeErrorEffects_treeState (s : State) :
    (s.decodeErrorEffects).treeState = s.treeState := rfl
@[simp] theorem State.decodeErrorEffects_tableState (s : State) :
    (s.decodeErrorEffects).tableState = s.tableState := rfl
@[simp] theorem State.decodeErrorEffects_result (s : State) :
    (s.decodeErrorEffects).result = s.result := rfl
@[simp] theorem State.decodeErrorEffects_errInfo (s : State) :
    (s.decodeErrorEffects).errInfo = s.errInfo := rfl
@[simp] theorem State.decodeErrorEffects_textLen (s : State) :
    (s.decodeErrorEffects).textLen = s.textLen := rfl
@[simp] theorem State.decodeErrorEffects_artLen (s : State) :
    (s.decodeErrorEffects).artLen = s.artLen := rfl
@[simp] theorem State.decodeErrorEffects_dtextLen (s : State) :
    (s.decodeErrorEffects).dtextLen = 0 := rfl
@[simp] theorem State.decodeErrorEffects_rawBits (s : State) :
    (s.decodeErrorEffects).rawBits = 0 := rfl
@[simp] theorem State.decodeErrorEffects_pad (s : State) :
    (s.decodeErrorEffects).pad = 0 := rfl
@[simp] theorem State.decodeErrorEffects_leaves (s : State) :
    (s.decodeErrorEffects).leaves = s.leaves := rfl
@[simp] theorem State.decodeErrorEffects_nodeCount (s : State) :
    (s.decodeErrorEffects).nodeCount = s.nodeCount := rfl
@[simp] theorem State.decodeErrorEffects_root (s : State) :
    (s.decodeErrorEffects).root = s.root := rfl
@[simp] theorem State.decodeErrorEffects_mem (s : State) :
    (s.decodeErrorEffects).mem = { s.mem with dtext := Table.unwritten s.draws } := rfl
@[simp] theorem State.decodeErrorEffects_cmdLatch (s : State) :
    (s.decodeErrorEffects).cmdLatch = s.cmdLatch := rfl
@[simp] theorem State.decodeErrorEffects_agenda (s : State) :
    (s.decodeErrorEffects).agenda = s.agenda := rfl
@[simp] theorem State.decodeErrorEffects_busLog (s : State) :
    (s.decodeErrorEffects).busLog = s.busLog := rfl
@[simp] theorem State.decodeErrorEffects_checksOk (s : State) :
    (s.decodeErrorEffects).checksOk = s.checksOk := rfl
@[simp] theorem State.decodeErrorEffects_draws (s : State) :
    (s.decodeErrorEffects).draws = s.draws + 1 := rfl

@[simp] theorem State.clearRegisters_params (s : State) :
    (s.clearRegisters).params = s.params := rfl
@[simp] theorem State.clearRegisters_err (s : State) :
    (s.clearRegisters).err = false := rfl
@[simp] theorem State.clearRegisters_overrun (s : State) :
    (s.clearRegisters).overrun = false := rfl
@[simp] theorem State.clearRegisters_treeState (s : State) :
    (s.clearRegisters).treeState = .none := rfl
@[simp] theorem State.clearRegisters_tableState (s : State) :
    (s.clearRegisters).tableState = .none := rfl
@[simp] theorem State.clearRegisters_result (s : State) :
    (s.clearRegisters).result = s.result := rfl
@[simp] theorem State.clearRegisters_errInfo (s : State) :
    (s.clearRegisters).errInfo = s.errInfo := rfl
@[simp] theorem State.clearRegisters_textLen (s : State) :
    (s.clearRegisters).textLen = 0 := rfl
@[simp] theorem State.clearRegisters_artLen (s : State) :
    (s.clearRegisters).artLen = 0 := rfl
@[simp] theorem State.clearRegisters_dtextLen (s : State) :
    (s.clearRegisters).dtextLen = 0 := rfl
@[simp] theorem State.clearRegisters_rawBits (s : State) :
    (s.clearRegisters).rawBits = 0 := rfl
@[simp] theorem State.clearRegisters_pad (s : State) :
    (s.clearRegisters).pad = 0 := rfl
@[simp] theorem State.clearRegisters_leaves (s : State) :
    (s.clearRegisters).leaves = 0 := rfl
@[simp] theorem State.clearRegisters_nodeCount (s : State) :
    (s.clearRegisters).nodeCount = 0 := rfl
@[simp] theorem State.clearRegisters_root (s : State) :
    (s.clearRegisters).root = 0 := rfl
@[simp] theorem State.clearRegisters_mem (s : State) :
    (s.clearRegisters).mem = s.mem := rfl
@[simp] theorem State.clearRegisters_cmdLatch (s : State) :
    (s.clearRegisters).cmdLatch = s.cmdLatch := rfl
@[simp] theorem State.clearRegisters_agenda (s : State) :
    (s.clearRegisters).agenda = s.agenda := rfl
@[simp] theorem State.clearRegisters_busLog (s : State) :
    (s.clearRegisters).busLog = s.busLog := rfl
@[simp] theorem State.clearRegisters_checksOk (s : State) :
    (s.clearRegisters).checksOk = s.checksOk := rfl
@[simp] theorem State.clearRegisters_draws (s : State) :
    (s.clearRegisters).draws = s.draws := rfl

@[simp] theorem State.setTreeRegisters_params (n : Nat) (s : State) :
    (s.setTreeRegisters n).params = s.params := rfl
@[simp] theorem State.setTreeRegisters_err (n : Nat) (s : State) :
    (s.setTreeRegisters n).err = s.err := rfl
@[simp] theorem State.setTreeRegisters_overrun (n : Nat) (s : State) :
    (s.setTreeRegisters n).overrun = s.overrun := rfl
@[simp] theorem State.setTreeRegisters_treeState (n : Nat) (s : State) :
    (s.setTreeRegisters n).treeState = if n = 0 then .empty else .built := rfl
@[simp] theorem State.setTreeRegisters_tableState (n : Nat) (s : State) :
    (s.setTreeRegisters n).tableState = .none := rfl
@[simp] theorem State.setTreeRegisters_result (n : Nat) (s : State) :
    (s.setTreeRegisters n).result = s.result := rfl
@[simp] theorem State.setTreeRegisters_errInfo (n : Nat) (s : State) :
    (s.setTreeRegisters n).errInfo = s.errInfo := rfl
@[simp] theorem State.setTreeRegisters_textLen (n : Nat) (s : State) :
    (s.setTreeRegisters n).textLen = s.textLen := rfl
@[simp] theorem State.setTreeRegisters_artLen (n : Nat) (s : State) :
    (s.setTreeRegisters n).artLen = s.artLen := rfl
@[simp] theorem State.setTreeRegisters_dtextLen (n : Nat) (s : State) :
    (s.setTreeRegisters n).dtextLen = s.dtextLen := rfl
@[simp] theorem State.setTreeRegisters_rawBits (n : Nat) (s : State) :
    (s.setTreeRegisters n).rawBits = s.rawBits := rfl
@[simp] theorem State.setTreeRegisters_pad (n : Nat) (s : State) :
    (s.setTreeRegisters n).pad = s.pad := rfl
@[simp] theorem State.setTreeRegisters_leaves (n : Nat) (s : State) :
    (s.setTreeRegisters n).leaves = BitVec.ofNat 11 n := rfl
@[simp] theorem State.setTreeRegisters_nodeCount (n : Nat) (s : State) :
    (s.setTreeRegisters n).nodeCount = if n = 0 then 0 else BitVec.ofNat 12 (2 * n - 1) := rfl
@[simp] theorem State.setTreeRegisters_root (n : Nat) (s : State) :
    (s.setTreeRegisters n).root = if n = 0 then 0 else BitVec.ofNat 11 (2 * n - 2) := rfl
@[simp] theorem State.setTreeRegisters_mem (n : Nat) (s : State) :
    (s.setTreeRegisters n).mem = s.mem := rfl
@[simp] theorem State.setTreeRegisters_cmdLatch (n : Nat) (s : State) :
    (s.setTreeRegisters n).cmdLatch = s.cmdLatch := rfl
@[simp] theorem State.setTreeRegisters_agenda (n : Nat) (s : State) :
    (s.setTreeRegisters n).agenda = s.agenda := rfl
@[simp] theorem State.setTreeRegisters_busLog (n : Nat) (s : State) :
    (s.setTreeRegisters n).busLog = s.busLog := rfl
@[simp] theorem State.setTreeRegisters_checksOk (n : Nat) (s : State) :
    (s.setTreeRegisters n).checksOk = s.checksOk := rfl
@[simp] theorem State.setTreeRegisters_draws (n : Nat) (s : State) :
    (s.setTreeRegisters n).draws = s.draws := rfl

@[simp] theorem State.storeArtifact_params (raw : Bits) (s : State) :
    (s.storeArtifact raw).params = s.params := rfl
@[simp] theorem State.storeArtifact_err (raw : Bits) (s : State) :
    (s.storeArtifact raw).err = s.err := rfl
@[simp] theorem State.storeArtifact_overrun (raw : Bits) (s : State) :
    (s.storeArtifact raw).overrun = s.overrun := rfl
@[simp] theorem State.storeArtifact_treeState (raw : Bits) (s : State) :
    (s.storeArtifact raw).treeState = s.treeState := rfl
@[simp] theorem State.storeArtifact_tableState (raw : Bits) (s : State) :
    (s.storeArtifact raw).tableState = s.tableState := rfl
@[simp] theorem State.storeArtifact_result (raw : Bits) (s : State) :
    (s.storeArtifact raw).result = s.result := rfl
@[simp] theorem State.storeArtifact_errInfo (raw : Bits) (s : State) :
    (s.storeArtifact raw).errInfo = s.errInfo := rfl
@[simp] theorem State.storeArtifact_textLen (raw : Bits) (s : State) :
    (s.storeArtifact raw).textLen = s.textLen := rfl
@[simp] theorem State.storeArtifact_artLen (raw : Bits) (s : State) :
    (s.storeArtifact raw).artLen = BitVec.ofNat 32 (pack raw).length := rfl
@[simp] theorem State.storeArtifact_dtextLen (raw : Bits) (s : State) :
    (s.storeArtifact raw).dtextLen = s.dtextLen := rfl
@[simp] theorem State.storeArtifact_rawBits (raw : Bits) (s : State) :
    (s.storeArtifact raw).rawBits = BitVec.ofNat 32 raw.length := rfl
@[simp] theorem State.storeArtifact_pad (raw : Bits) (s : State) :
    (s.storeArtifact raw).pad = BitVec.ofNat 4 (padCount raw.length) := rfl
@[simp] theorem State.storeArtifact_leaves (raw : Bits) (s : State) :
    (s.storeArtifact raw).leaves = s.leaves := rfl
@[simp] theorem State.storeArtifact_nodeCount (raw : Bits) (s : State) :
    (s.storeArtifact raw).nodeCount = s.nodeCount := rfl
@[simp] theorem State.storeArtifact_root (raw : Bits) (s : State) :
    (s.storeArtifact raw).root = s.root := rfl
@[simp] theorem State.storeArtifact_mem (raw : Bits) (s : State) :
    (s.storeArtifact raw).mem = { s.mem with art := s.mem.art.writeList 0 (pack raw) } := rfl
@[simp] theorem State.storeArtifact_cmdLatch (raw : Bits) (s : State) :
    (s.storeArtifact raw).cmdLatch = s.cmdLatch := rfl
@[simp] theorem State.storeArtifact_agenda (raw : Bits) (s : State) :
    (s.storeArtifact raw).agenda = s.agenda := rfl
@[simp] theorem State.storeArtifact_busLog (raw : Bits) (s : State) :
    (s.storeArtifact raw).busLog = s.busLog := rfl
@[simp] theorem State.storeArtifact_checksOk (raw : Bits) (s : State) :
    (s.storeArtifact raw).checksOk = s.checksOk := rfl
@[simp] theorem State.storeArtifact_draws (raw : Bits) (s : State) :
    (s.storeArtifact raw).draws = s.draws := rfl

@[simp] theorem State.storeText_params (h : Byte) (n : Nat) (out : List Symbol) (s : State) :
    (s.storeText h n out).params = s.params := rfl
@[simp] theorem State.storeText_err (h : Byte) (n : Nat) (out : List Symbol) (s : State) :
    (s.storeText h n out).err = s.err := rfl
@[simp] theorem State.storeText_overrun (h : Byte) (n : Nat) (out : List Symbol) (s : State) :
    (s.storeText h n out).overrun = s.overrun := rfl
@[simp] theorem State.storeText_treeState (h : Byte) (n : Nat) (out : List Symbol) (s : State) :
    (s.storeText h n out).treeState = s.treeState := rfl
@[simp] theorem State.storeText_tableState (h : Byte) (n : Nat) (out : List Symbol) (s : State) :
    (s.storeText h n out).tableState = s.tableState := rfl
@[simp] theorem State.storeText_result (h : Byte) (n : Nat) (out : List Symbol) (s : State) :
    (s.storeText h n out).result = s.result := rfl
@[simp] theorem State.storeText_errInfo (h : Byte) (n : Nat) (out : List Symbol) (s : State) :
    (s.storeText h n out).errInfo = s.errInfo := rfl
@[simp] theorem State.storeText_textLen (h : Byte) (n : Nat) (out : List Symbol) (s : State) :
    (s.storeText h n out).textLen = s.textLen := rfl
@[simp] theorem State.storeText_artLen (h : Byte) (n : Nat) (out : List Symbol) (s : State) :
    (s.storeText h n out).artLen = s.artLen := rfl
@[simp] theorem State.storeText_dtextLen (h : Byte) (n : Nat) (out : List Symbol) (s : State) :
    (s.storeText h n out).dtextLen = BitVec.ofNat 32 out.length := rfl
@[simp] theorem State.storeText_rawBits (h : Byte) (n : Nat) (out : List Symbol) (s : State) :
    (s.storeText h n out).rawBits = BitVec.ofNat 32 n := rfl
@[simp] theorem State.storeText_pad (h : Byte) (n : Nat) (out : List Symbol) (s : State) :
    (s.storeText h n out).pad = h.setWidth 4 := rfl
@[simp] theorem State.storeText_leaves (h : Byte) (n : Nat) (out : List Symbol) (s : State) :
    (s.storeText h n out).leaves = s.leaves := rfl
@[simp] theorem State.storeText_nodeCount (h : Byte) (n : Nat) (out : List Symbol) (s : State) :
    (s.storeText h n out).nodeCount = s.nodeCount := rfl
@[simp] theorem State.storeText_root (h : Byte) (n : Nat) (out : List Symbol) (s : State) :
    (s.storeText h n out).root = s.root := rfl
@[simp] theorem State.storeText_mem (h : Byte) (n : Nat) (out : List Symbol) (s : State) :
    (s.storeText h n out).mem = { s.mem with dtext := s.mem.dtext.writeList 0 out } := rfl
@[simp] theorem State.storeText_cmdLatch (h : Byte) (n : Nat) (out : List Symbol) (s : State) :
    (s.storeText h n out).cmdLatch = s.cmdLatch := rfl
@[simp] theorem State.storeText_agenda (h : Byte) (n : Nat) (out : List Symbol) (s : State) :
    (s.storeText h n out).agenda = s.agenda := rfl
@[simp] theorem State.storeText_busLog (h : Byte) (n : Nat) (out : List Symbol) (s : State) :
    (s.storeText h n out).busLog = s.busLog := rfl
@[simp] theorem State.storeText_checksOk (h : Byte) (n : Nat) (out : List Symbol) (s : State) :
    (s.storeText h n out).checksOk = s.checksOk := rfl
@[simp] theorem State.storeText_draws (h : Byte) (n : Nat) (out : List Symbol) (s : State) :
    (s.storeText h n out).draws = s.draws := rfl

@[simp] theorem State.latchWord_params (v : Word) (s : State) :
    (s.latchWord v).params = s.params := rfl
@[simp] theorem State.latchWord_err (v : Word) (s : State) :
    (s.latchWord v).err = s.err := rfl
@[simp] theorem State.latchWord_overrun (v : Word) (s : State) :
    (s.latchWord v).overrun = s.overrun := rfl
@[simp] theorem State.latchWord_treeState (v : Word) (s : State) :
    (s.latchWord v).treeState = s.treeState := rfl
@[simp] theorem State.latchWord_tableState (v : Word) (s : State) :
    (s.latchWord v).tableState = s.tableState := rfl
@[simp] theorem State.latchWord_result (v : Word) (s : State) :
    (s.latchWord v).result = s.result := rfl
@[simp] theorem State.latchWord_errInfo (v : Word) (s : State) :
    (s.latchWord v).errInfo = s.errInfo := rfl
@[simp] theorem State.latchWord_textLen (v : Word) (s : State) :
    (s.latchWord v).textLen = s.textLen := rfl
@[simp] theorem State.latchWord_artLen (v : Word) (s : State) :
    (s.latchWord v).artLen = s.artLen := rfl
@[simp] theorem State.latchWord_dtextLen (v : Word) (s : State) :
    (s.latchWord v).dtextLen = s.dtextLen := rfl
@[simp] theorem State.latchWord_rawBits (v : Word) (s : State) :
    (s.latchWord v).rawBits = s.rawBits := rfl
@[simp] theorem State.latchWord_pad (v : Word) (s : State) :
    (s.latchWord v).pad = s.pad := rfl
@[simp] theorem State.latchWord_leaves (v : Word) (s : State) :
    (s.latchWord v).leaves = s.leaves := rfl
@[simp] theorem State.latchWord_nodeCount (v : Word) (s : State) :
    (s.latchWord v).nodeCount = s.nodeCount := rfl
@[simp] theorem State.latchWord_root (v : Word) (s : State) :
    (s.latchWord v).root = s.root := rfl
@[simp] theorem State.latchWord_mem (v : Word) (s : State) :
    (s.latchWord v).mem = s.mem := rfl
@[simp] theorem State.latchWord_cmdLatch (v : Word) (s : State) :
    (s.latchWord v).cmdLatch = some v := rfl
@[simp] theorem State.latchWord_agenda (v : Word) (s : State) :
    (s.latchWord v).agenda = [] := rfl
@[simp] theorem State.latchWord_busLog (v : Word) (s : State) :
    (s.latchWord v).busLog = s.busLog := rfl
@[simp] theorem State.latchWord_checksOk (v : Word) (s : State) :
    (s.latchWord v).checksOk = s.checksOk := rfl
@[simp] theorem State.latchWord_draws (v : Word) (s : State) :
    (s.latchWord v).draws = s.draws := rfl

@[simp] theorem Table.unwritten_epoch {α : Type} (d : Nat) : (Table.unwritten d : Table α).epoch = d := rfl

@[simp] theorem Table.unwritten_cells {α : Type} (d : Nat) : (Table.unwritten d : Table α).cells = [] := rfl

/-! An operand accessor sees the parameters and its own table only. -/

theorem State.freqAt_congr {s t : State} (hp : s.params = t.params) (hm : s.mem.freq = t.mem.freq) :
    s.freqAt = t.freqAt := by
  funext i; simp only [State.freqAt, hp, hm]

theorem State.textAt_congr {s t : State} (hp : s.params = t.params) (hm : s.mem.text = t.mem.text) :
    s.textAt = t.textAt := by
  funext i; simp only [State.textAt, hp, hm]

theorem State.artAt_congr {s t : State} (hm : s.mem.art = t.mem.art) : s.artAt = t.artAt := by
  funext i; simp only [State.artAt, hm]

theorem State.nodeAt_congr {s t : State} (hm : s.mem.node = t.mem.node) : s.nodeAt = t.nodeAt := by
  funext i; simp only [State.nodeAt, hm]

theorem State.codeAt_congr {s t : State} (hp : s.params = t.params) (hm : s.mem.code = t.mem.code) :
    s.codeAt = t.codeAt := by
  funext i; simp only [State.codeAt, hp, hm]

theorem State.dtextAt_congr {s t : State} (hp : s.params = t.params) (hm : s.mem.dtext = t.mem.dtext) :
    s.dtextAt = t.dtextAt := by
  funext i; simp only [State.dtextAt, hp, hm]

end Sys2Proof.Machine
end

