-- ==== Sys2Proof/Laws/Ops.lean ====
section
/-! SUPPORT. What the shared operations and the loops of the commands can do, each said once. -/

namespace Sys2Proof.Machine

/-! ## Bit strings (R8) -/

@[simp] theorem ubin8_length (v : Byte) : (ubin8 v).length = 8 := by simp [ubin8]

theorem uint_ubin8 (v : Byte) : uint (ubin8 v) = v := by
  revert v; decide +kernel

theorem ubin8_uint_eight (a b c d e f g h : Bool) :
    ubin8 (uint [a, b, c, d, e, f, g, h]) = [a, b, c, d, e, f, g, h] := by
  revert a b c d e f g h; decide +kernel

@[simp] theorem unpack8_nil : unpack8 [] = [] := rfl

@[simp] theorem unpack8_cons (b : Byte) (B : List Byte) : unpack8 (b :: B) = ubin8 b ++ unpack8 B := rfl

@[simp] theorem unpack8_length (B : List Byte) : (unpack8 B).length = 8 * B.length := by
  induction B with
  | nil => rfl
  | cons b B ih => simp only [unpack8_cons, List.length_append, ubin8_length, ih, List.length_cons]; omega

theorem pack8_length (S : Bits) : (pack8 S).length = S.length / 8 := by simp [pack8]

theorem padCount_pos (n : Nat) : 1 ≤ padCount n := by unfold padCount; omega

theorem padCount_le (n : Nat) : padCount n ≤ 8 := by unfold padCount; omega

theorem paddedStream_length (raw : Bits) : (paddedStream raw).length = 8 * (raw.length / 8 + 2) := by
  simp only [paddedStream, List.length_append, ubin8_length, List.length_replicate, padCount]; omega

/-- `Unpack` fails only in the header stage (R176). -/
theorem unpack_error_code {B : List Byte} {f : Failure} (h : unpack B = .error f) :
    f.code = .corruptHeader := by
  unfold unpack at h
  split at h
  · cases h; rfl
  · dsimp only at h
    split at h
    · cases h; rfl
    · split at h
      · cases h; rfl
      · cases h

/-! ## The priority queue (R131) -/

/-- `a` does not come after `b` in key order. -/
def Key.atMost (a b : Key) : Prop := a.weight.toNat < b.weight.toNat ∨
  (a.weight.toNat = b.weight.toNat ∧ a.idx ≤ b.idx)

theorem Key.before_iff (a b : Key) : a.before b = true ↔
    a.weight.toNat < b.weight.toNat ∨ (a.weight.toNat = b.weight.toNat ∧ a.idx < b.idx) := by
  simp [Key.before]

theorem Key.atMost_trans {a b c : Key} (h1 : a.atMost b) (h2 : b.atMost c) : a.atMost c := by
  unfold Key.atMost at *; omega

theorem Key.lesser_eq (a b : Key) : Key.lesser a b = a ∨ Key.lesser a b = b := by
  unfold Key.lesser; split <;> simp

theorem Key.lesser_atMost_left (a b : Key) : (Key.lesser a b).atMost a := by
  unfold Key.lesser
  split
  · have := (Key.before_iff b a).1 ‹_›; unfold Key.atMost; omega
  · exact .inr ⟨rfl, Nat.le_refl _⟩

theorem Key.lesser_atMost_right (a b : Key) : (Key.lesser a b).atMost b := by
  unfold Key.lesser
  split
  · exact .inr ⟨rfl, Nat.le_refl _⟩
  · have h := mt (Key.before_iff b a).2 ‹_›; unfold Key.atMost; omega

theorem foldl_lesser_spec (ks : List Key) (k : Key) :
    ks.foldl Key.lesser k ∈ k :: ks ∧ ∀ x ∈ k :: ks, (ks.foldl Key.lesser k).atMost x := by
  induction ks generalizing k with
  | nil => exact ⟨List.mem_cons_self, by simp [Key.atMost]⟩
  | cons a ks ih =>
    obtain ⟨hm, hle⟩ := ih (Key.lesser k a)
    have hself := hle _ List.mem_cons_self
    refine ⟨?_, ?_⟩
    · rcases List.mem_cons.1 hm with hm | hm
      · show ks.foldl Key.lesser (Key.lesser k a) ∈ _
        rw [hm]
        rcases Key.lesser_eq k a with h | h <;> simp [h]
      · exact List.mem_cons_of_mem _ (List.mem_cons_of_mem _ hm)
    · intro x hx
      rcases List.mem_cons.1 hx with rfl | hx
      · exact Key.atMost_trans hself (Key.lesser_atMost_left _ _)
      · rcases List.mem_cons.1 hx with rfl | hx
        · exact Key.atMost_trans hself (Key.lesser_atMost_right _ _)
        · exact hle x (List.mem_cons_of_mem _ hx)

/-- Everything `extract_min` does (R131): it fails only on the empty queue, and otherwise takes out a member that no
member comes before. -/
theorem extractMin_some {pq rest : List Key} {m : Key} (h : extractMin pq = some (m, rest)) :
    m ∈ pq ∧ rest = pq.erase m ∧ ∀ x ∈ pq, m.atMost x := by
  cases pq with
  | nil => simp [extractMin] at h
  | cons k ks =>
    simp only [extractMin, Option.some.injEq, Prod.mk.injEq] at h
    obtain ⟨rfl, rfl⟩ := h
    exact ⟨(foldl_lesser_spec ks k).1, rfl, (foldl_lesser_spec ks k).2⟩

@[simp] theorem extractMin_eq_none (pq : List Key) : extractMin pq = none ↔ pq = [] := by
  cases pq <;> simp [extractMin]

theorem extractMin_length {pq rest : List Key} {m : Key} (h : extractMin pq = some (m, rest)) :
    rest.length + 1 = pq.length := by
  obtain ⟨hm, rfl, _⟩ := extractMin_some h
  rw [List.length_erase_of_mem hm]
  have := List.length_pos_of_mem hm
  omega

/-- The merge loop only appends nodes, one fewer than the queue holds when the fuel suffices (R134). -/
theorem mergeLoop_append (fuel : Nat) (pq : List Key) (nodes : List Node) (h : pq.length ≤ fuel + 1) :
    ∃ extra, mergeLoop fuel pq nodes = nodes ++ extra ∧ extra.length = pq.length - 1 := by
  induction fuel generalizing pq nodes with
  | zero => exact ⟨[], by simp [mergeLoop], by simp; omega⟩
  | succ fuel ih =>
    unfold mergeLoop
    split
    case h_1 heq =>
      rw [extractMin_eq_none] at heq; subst heq; exact ⟨[], by simp, rfl⟩
    case h_2 a pq1 heq =>
      have l1 := extractMin_length heq
      split
      case h_1 heq2 =>
        rw [extractMin_eq_none] at heq2; subst heq2
        exact ⟨[], by simp, by simp only [List.length_nil] at *; omega⟩
      case h_2 b pq2 heq2 =>
        have l2 := extractMin_length heq2
        obtain ⟨extra, he, hl⟩ := ih ({ weight := a.weight + b.weight, idx := nodes.length } :: pq2)
          (nodes ++ [.internal (a.weight + b.weight) (BitVec.ofNat 11 a.idx) (BitVec.ofNat 11 b.idx)])
          (by simp only [List.length_cons]; omega)
        refine ⟨.internal (a.weight + b.weight) (BitVec.ofNat 11 a.idx) (BitVec.ofNat 11 b.idx) :: extra, ?_, ?_⟩
        · rw [he]; simp
        · simp only [List.length_cons] at *; omega

/-! ## The encoder's text loop (R190) -/

/-- When the text loop ends without failure, every symbol it read has a code, the codes follow the raw bits, and the
artifact fits (R191, R194). -/
theorem encodeScan_ok {s : State} {n i : Nat} {raw r : Bits} (h : encodeScan s n i raw = .ok r) :
    (∀ j, i ≤ j → j < i + n → s.codeAt (s.textAt j).toNat ≠ []) ∧
    r = raw ++ (List.range' i n).flatMap (fun j => s.codeAt (s.textAt j).toNat) ∧
    (n ≠ 0 → r.length / 8 + 2 ≤ s.params.artCap) := by
  induction n generalizing i raw with
  | zero =>
    simp only [encodeScan, Except.ok.injEq] at h
    subst h
    exact ⟨by intros; omega, by simp, by simp⟩
  | succ n ih =>
    simp only [encodeScan] at h
    split at h
    · cases h
    · rename_i hc
      split at h
      · cases h
      · rename_i hfit
        obtain ⟨h1, h2, h3⟩ := ih h
        refine ⟨?_, ?_, ?_⟩
        · intro j hj hj2
          by_cases hji : j = i
          · subst hji; intro he; exact hc (by simp [he])
          · exact h1 j (by omega) (by omega)
        · rw [h2, List.range'_succ]; simp
        · intro _
          by_cases hn : n = 0
          · subst hn; simp only [List.range'_zero, List.flatMap_nil, List.append_nil] at h2
            subst h2; omega
          · exact h3 hn

theorem encodeScan_error_code {s : State} {n i : Nat} {raw : Bits} {f : Failure}
    (h : encodeScan s n i raw = .error f) : f.code = .missingCode ∨ f.code = .artOverflow := by
  induction n generalizing i raw with
  | zero => simp [encodeScan] at h
  | succ n ih =>
    simp only [encodeScan] at h
    split at h
    · cases h; exact .inl rfl
    · split at h
      · cases h; exact .inr rfl
      · exact ih h

/-! ## The decoder's payload loop (R210) -/

/-- `emit` appends the symbol, or fails with DTEXT_OVERFLOW exactly when DTEXT is full (R215). -/
theorem emitSymbol_ok {s : State} {out out' : List Symbol} {sym : Symbol} {j : Nat}
    (h : emitSymbol s out sym j = .ok out') : out' = out ++ [sym] ∧ out.length ≠ s.params.dtextCap := by
  unfold emitSymbol at h
  split at h
  · cases h
  · cases h; exact ⟨rfl, ‹_›⟩

theorem emitSymbol_error {s : State} {out : List Symbol} {sym : Symbol} {j : Nat} {f : Failure}
    (h : emitSymbol s out sym j = .error f) :
    f = { code := .dtextOverflow, info := BitVec.ofNat 32 j } ∧ out.length = s.params.dtextCap := by
  unfold emitSymbol at h
  split at h
  · cases h; exact ⟨rfl, ‹_›⟩
  · cases h

/-- When the payload loop ends without failure, it only appended symbols, and they fit DTEXT. -/
theorem decodeScan_ok {s : State} {p : Bits} {j : Nat} {cur c : NodeIdx} {out o : List Symbol}
    (h : decodeScan s p j cur out = .ok (c, o)) (hcap : out.length ≤ s.params.dtextCap) :
    (∃ extra, o = out ++ extra) ∧ o.length ≤ s.params.dtextCap := by
  induction p generalizing j cur out with
  | nil =>
    simp only [decodeScan, Except.ok.injEq, Prod.mk.injEq] at h
    obtain ⟨-, rfl⟩ := h
    exact ⟨⟨[], by simp⟩, hcap⟩
  | cons b p ih =>
    have key : ∀ {sym : Symbol} {out' : List Symbol} {cur' : NodeIdx},
        emitSymbol s out sym j = .ok out' → decodeScan s p (j + 1) cur' out' = .ok (c, o) →
        (∃ extra, o = out ++ extra) ∧ o.length ≤ s.params.dtextCap := by
      intro sym out' cur' he hd
      obtain ⟨rfl, hne⟩ := emitSymbol_ok he
      obtain ⟨⟨extra, hx⟩, hl⟩ := ih hd (by simp only [List.length_append, List.length_singleton]; omega)
      exact ⟨⟨sym :: extra, by rw [hx]; simp⟩, hl⟩
    simp only [decodeScan] at h
    split at h
    · cases h
    · split at h
      · split at h
        · cases h
        · split at h
          · cases h
          · exact key ‹_› h
      · split at h
        · split at h
          · cases h
          · exact key ‹_› h
        · exact ih h hcap

theorem decodeScan_error_code {s : State} {p : Bits} {j : Nat} {cur : NodeIdx} {out : List Symbol} {f : Failure}
    (h : decodeScan s p j cur out = .error f) : f.code = .corruptMatch ∨ f.code = .dtextOverflow := by
  induction p generalizing j cur out with
  | nil => simp [decodeScan] at h
  | cons b p ih =>
    simp only [decodeScan] at h
    split at h
    · cases h; exact .inl rfl
    · split at h
      · split at h
        · cases h; exact .inl rfl
        · split at h
          · rename_i he; cases h; obtain ⟨rfl, -⟩ := emitSymbol_error he; exact .inr rfl
          · exact ih h
      · split at h
        · split at h
          · rename_i he; cases h; obtain ⟨rfl, -⟩ := emitSymbol_error he; exact .inr rfl
          · exact ih h
        · exact ih h

/-- What DECODE's checks after the length check can answer: a failure of the header or the match stage, or symbols that
fit DTEXT. -/
theorem decodeArtifact_cases (s : State) :
    (∃ f, decodeArtifact s = .error f ∧
      (f.code = .corruptHeader ∨ f.code = .corruptMatch ∨ f.code = .dtextOverflow)) ∨
    (∃ h n out, decodeArtifact s = .ok (h, n, out) ∧ out.length ≤ s.params.dtextCap) := by
  unfold decodeArtifact
  split
  · exact .inl ⟨_, rfl, .inl (unpack_error_code ‹_›)⟩
  · split
    · exact .inl ⟨_, rfl, .inr (decodeScan_error_code ‹_›)⟩
    · rename_i hd
      split
      · exact .inl ⟨_, rfl, .inr (.inl rfl)⟩
      · exact .inr ⟨_, _, _, rfl, (decodeScan_ok hd (by simp)).2⟩

end Sys2Proof.Machine
end

