-- ==== Sys2Proof/Laws/PerInstr.lean ====
section
/-! SUPPORT. The per-command family `Format`: the word of every command has format C (spec/30_encoding.md R90): OP in bits
[31:24] and a zero RSVD field. -/

namespace Sys2Proof.Laws.Format

/-- The command's word has its opcode in OP and 0 in RSVD, and the command is well-formed (R90, R92). -/
def Statement (i : Instr) : Prop :=
  opField (encode i) = opOf i ∧ rsvdField (encode i) = 0 ∧ i.wellFormed = true

theorem nop : Statement .nop := ⟨by decide, by decide, rfl⟩
theorem clear : Statement .clear := ⟨by decide, by decide, rfl⟩
theorem clrerr : Statement .clrerr := ⟨by decide, by decide, rfl⟩
theorem clrfreq : Statement .clrfreq := ⟨by decide, by decide, rfl⟩
theorem buildTree : Statement .buildTree := ⟨by decide, by decide, rfl⟩
theorem genTable : Statement .genTable := ⟨by decide, by decide, rfl⟩
theorem encode : Statement .encode := ⟨by decide, by decide, rfl⟩
theorem decode : Statement .decode := ⟨by decide, by decide, rfl⟩

end Sys2Proof.Laws.Format
end

