-- ==== Sys2Proof/Laws/Step.lean ====
section
/-! SUPPORT. What one step of each agent can do: the inversion lemmas of the host's accesses, of the core's turn, of the
commands ENCODE and DECODE, and of the step. -/

namespace Sys2Proof.Machine

theorem State.busy_eq_false {s : State} : s.busy = false ↔ s.cmdLatch = none := by
  simp [State.busy]

theorem State.busy_eq_true {s : State} : s.busy = true ↔ ∃ v, s.cmdLatch = some v := by
  simp [State.busy, Option.isSome_iff_exists]

/-- Everything a write while BUSY = 0 can do (R67): it stores one word, or nothing. -/
theorem memWrite_cases (a : Addr) (v : Word) (s : State) :
    s.memWrite a v = s ∨
    s.memWrite a v = { s with cmdLatch := some v } ∨
    s.memWrite a v = { s with textLen := v } ∨
    s.memWrite a v = { s with artLen := v } ∨
    (∃ i, target s.params a = .freq i ∧
      s.memWrite a v = { s with mem := { s.mem with freq := s.mem.freq.write i (truncTo s.params.freqW v) } }) ∨
    (∃ i, target s.params a = .text i ∧
      s.memWrite a v = { s with mem := { s.mem with
        text := s.mem.text.write i (BitVec.ofNat 10 (v.toNat % 2 ^ s.params.symW)) } }) ∨
    (∃ k, target s.params a = .art k ∧
      s.memWrite a v = { s with mem := { s.mem with art := s.mem.art.write k (v.setWidth 8) } }) := by
  unfold State.memWrite
  split <;> simp_all

/-- Everything a host write can do (R67, R72). -/
theorem hostWrite_cases (a : Addr) (v : Word) (s : State) :
    ((∃ w, s.cmdLatch = some w) ∧ hostWrite a v s = { s with overrun := true }) ∨
    (s.cmdLatch = none ∧ hostWrite a v s = s.memWrite a v) := by
  unfold hostWrite
  cases hb : s.busy
  · exact .inr ⟨State.busy_eq_false.1 hb, rfl⟩
  · exact .inl ⟨State.busy_eq_true.1 hb, rfl⟩

/-- A window's index is below the window's bound (R62). -/
theorem boundedTarget_eq {i bound : Nat} {t r : Target} (h : boundedTarget i bound t = r) (hr : r ≠ .unmapped) :
    i < bound ∧ t = r := by
  unfold boundedTarget at h
  split at h
  · exact ⟨‹_›, h⟩
  · exact absurd h.symm hr

/-- A window's entry is unmapped exactly when its index is not below the window's bound (R62). -/
theorem boundedTarget_eq_unmapped {i bound : Nat} {t : Target} (ht : t ≠ .unmapped) :
    boundedTarget i bound t = .unmapped ↔ bound ≤ i := by
  unfold boundedTarget
  split <;> simp_all

/-- Every register is in the register block (R62, R63). -/
theorem registerOffset_lt (r : Reg) : registerOffset r < 0x001000 := by cases r <;> decide

/-- The register block holds a register at exactly its offset (R63). -/
theorem regTarget_eq_reg {offset : Nat} {r : Reg} : regTarget offset = .reg r ↔ offset = registerOffset r := by
  constructor
  · intro h
    unfold regTarget regAt at h
    split at h
    · rename_i q hq
      split at hq <;> first | (cases h; cases hq; rfl) | cases hq
    · cases h
  · rintro rfl
    cases r <;> rfl

/-- Every other offset of the register block is unmapped (R63). -/
theorem regTarget_eq_unmapped {offset : Nat} :
    regTarget offset = .unmapped ↔ ∀ r, offset ≠ registerOffset r := by
  constructor
  · rintro h r rfl
    rw [regTarget_eq_reg.2 rfl] at h
    cases h
  · intro h
    unfold regTarget
    split
    · rename_i r hr
      exact absurd (regTarget_eq_reg.1 (by simp [regTarget, hr])) (h r)
    · rfl

/-- The core's turn: nothing with CMD_LATCH empty; else the latched command, or the illegal command (R110, R111). -/
theorem coreTurn_cases {s t : State} (h : coreTurn s = .next t) :
    (s.cmdLatch = none ∧ t = s) ∨
    (∃ v i, s.cmdLatch = some v ∧ decode v = .ok i ∧ exec i s = .next t) ∨
    (∃ v e, s.cmdLatch = some v ∧ decode v = .error e ∧
      t = s.raise { code := .illegalCmd, info := v }) := by
  unfold coreTurn at h
  split at h
  · cases h; exact .inl ⟨‹_›, rfl⟩
  · rename_i v hv
    unfold runWord at h
    split at h
    · rename_i i hi
      exact .inr (.inl ⟨v, i, hv, hi, h⟩)
    · rename_i e he
      cases h
      exact .inr (.inr ⟨v, e, hv, he, rfl⟩)

/-- A step is the core's turn when nothing is scheduled, else the first scheduled move (R75). -/
theorem step_cases {s t : State} (h : step s = .next t) :
    (s.agenda = [] ∧ coreTurn s = .next t) ∨
    (∃ m rest, s.agenda = m :: rest ∧ runMove m { s with agenda := rest } = .next t) := by
  unfold step schedule at h
  split at h
  · exact .inl ⟨‹_›, h⟩
  · exact .inr ⟨_, _, ‹_›, h⟩

/-- Everything ENCODE can do (R190, R193). -/
theorem execEncode_cases {s t : State} (h : execEncode s = .next t) :
    (s.tableState = .none ∧ t = s.encodeErrorEffects.raise { code := .noTable, info := 0 }) ∨
    (s.tableState ≠ .none ∧ s.params.textCap < s.textLen.toNat ∧
      t = s.encodeErrorEffects.raise { code := .badLen, info := s.textLen }) ∨
    (s.tableState ≠ .none ∧ s.textLen.toNat ≤ s.params.textCap ∧
      ∃ f, encodeScan s s.textLen.toNat 0 [] = .error f ∧ t = s.forgetArt.encodeErrorEffects.raise f) ∨
    (s.tableState ≠ .none ∧ s.textLen.toNat ≤ s.params.textCap ∧
      ∃ raw, encodeScan s s.textLen.toNat 0 [] = .ok raw ∧ t = (s.storeArtifact raw).complete) := by
  simp only [execEncode, Host.Outcome.next.injEq] at h
  subst h
  split
  · exact .inl ⟨‹_›, rfl⟩
  · refine .inr ?_
    split
    · exact .inl ⟨‹_›, ‹_›, rfl⟩
    · refine .inr ?_
      split
      · exact .inl ⟨‹_›, by omega, _, ‹_›, rfl⟩
      · exact .inr ⟨‹_›, by omega, _, ‹_›, rfl⟩

/-- Everything DECODE can do (R210, R216). -/
theorem execDecode_cases {s t : State} (h : execDecode s = .next t) :
    (s.tableState = .none ∧ t = s.decodeErrorEffects.raise { code := .noTable, info := 0 }) ∨
    (s.tableState ≠ .none ∧ s.params.artCap < s.artLen.toNat ∧
      t = s.decodeErrorEffects.raise { code := .badLen, info := s.artLen }) ∨
    (s.tableState ≠ .none ∧ s.artLen.toNat ≤ s.params.artCap ∧
      ∃ f, decodeArtifact s = .error f ∧ t = s.decodeErrorEffects.raise f) ∨
    (s.tableState ≠ .none ∧ s.artLen.toNat ≤ s.params.artCap ∧
      ∃ b n out, decodeArtifact s = .ok (b, n, out) ∧ t = (s.storeText b n out).complete) := by
  simp only [execDecode, Host.Outcome.next.injEq] at h
  subst h
  split
  · exact .inl ⟨‹_›, rfl⟩
  · refine .inr ?_
    split
    · exact .inl ⟨‹_›, ‹_›, rfl⟩
    · refine .inr ?_
      split
      · exact .inl ⟨‹_›, by omega, _, ‹_›, rfl⟩
      · exact .inr ⟨‹_›, by omega, _, _, _, ‹_›, rfl⟩

/-- Everything GEN_TABLE can do (R150). -/
theorem execGenTable_cases {s t : State} (h : execGenTable s = .next t) :
    (s.treeState = .none ∧ t = s.raise { code := .noTree, info := 0 }) ∨
    (s.treeState = .empty ∧
      t = State.complete { s with mem := { s.mem with code := s.generatedCode }, tableState := .empty }) ∨
    (s.treeState = .built ∧
      t = State.complete { s with mem := { s.mem with code := s.generatedCode }, tableState := .ready }) := by
  simp only [execGenTable, Host.Outcome.next.injEq] at h
  subst h
  cases hs : s.treeState <;> simp

end Sys2Proof.Machine
end

