-- ==== Sys2Proof/Tests/Slice0.lean ====
section
/-! SUPPORT. The model's own tests: decoding by words written out from spec/30_encoding.md R90 and R91, the parameter
checks, one or two single-step tests per command with expected values from spec/95_test_vectors.md, and for every
obligation with hypotheses a witness that meets them. -/

namespace Sys2Proof.Machine.Tests

/-! ## Decoding: the words of R91 written out bit by bit, OP then RSVD -/

theorem test_decode_nop : decode 0b00000000_000000000000000000000000#32 = .ok .nop := by decide
theorem test_decode_clear : decode 0b00000001_000000000000000000000000#32 = .ok .clear := by decide
theorem test_decode_clrerr : decode 0b00000010_000000000000000000000000#32 = .ok .clrerr := by decide
theorem test_decode_clrfreq : decode 0b00000011_000000000000000000000000#32 = .ok .clrfreq := by decide
theorem test_decode_buildTree : decode 0b00010000_000000000000000000000000#32 = .ok .buildTree := by decide
theorem test_decode_genTable : decode 0b00010001_000000000000000000000000#32 = .ok .genTable := by decide
theorem test_decode_encode : decode 0b00100000_000000000000000000000000#32 = .ok .encode := by decide
theorem test_decode_decode : decode 0b00110000_000000000000000000000000#32 = .ok .decode := by decide

/-- EN-2, EN-8, EN-14, EN-17: RSVD is not 0. -/
theorem test_decode_rsvd :
    [0x00000001#32, 0x10800000#32, 0x30000001#32, 0xFFFFFFFF#32].map decode
      = List.replicate 4 (.error .rsvdNonZero) := by decide

/-- EN-6, EN-10, EN-12, EN-15, EN-16: reserved opcodes. -/
theorem test_decode_reserved :
    [0x04000000#32, 0x12000000#32, 0x2F000000#32, 0x40000000#32, 0xFF000000#32].map decode
      = List.replicate 5 (.error .opReserved) := by decide

/-- A table word's first step after reset runs it: GEN_TABLE from reset fails with NO_TREE (TB-12). -/
theorem test_withFetchWord_genTable :
    (match step (State.reset.withFetchWord 32 0x11000000) with
      | .next t => t.result == 0x02 && t.statusWord == 0x02#32
      | _ => false) = true := by decide

/-! ## WellFormed: an ill-formed parameter for each check of R4, which the check refuses -/

theorem test_legal_default : Params.default.legal = true := by decide
theorem test_symW_refused : ({ Params.default with symW := 11 } : Params).legal = false := by decide
theorem test_freqW_refused : ({ Params.default with freqW := 25 } : Params).legal = false := by decide
theorem test_textCap_refused : ({ Params.default with textCap := 0 } : Params).legal = false := by decide
theorem test_artCap_refused : ({ Params.default with artCap := 1 } : Params).legal = false := by decide
theorem test_dtextCap_refused : ({ Params.default with dtextCap := 262145 } : Params).legal = false := by decide
theorem test_wellFormed : Instr.encode.wellFormed = true := rfl

/-! ## Small states -/

/-- The state an outcome goes on with. -/
def after (o : Host.Outcome State Fault Refusal) : State :=
  match o with
  | .next t => t
  | .fault r => nomatch r
  | .refused _ => State.reset

/-- Small legal parameters. -/
def smallP : Params := { symW := 2, freqW := 4, textCap := 4, artCap := 3, dtextCap := 3 }

/-- The FREQ contents 2, 3, 4, 0 on the small machine. -/
def freqState : State :=
  { State.resetWith smallP with
    mem := { Memory.unwritten 0 with freq := { epoch := 0, cells := [(0, 2), (1, 3), (2, 4), (3, 0)] } } }

/-- FREQ all 0 on the small machine. -/
def noFreqState : State :=
  { State.resetWith smallP with
    mem := { Memory.unwritten 0 with freq := { epoch := 0, cells := [(0, 0), (1, 0), (2, 0), (3, 0)] } } }

/-- One non-zero count, of symbol 1. -/
def oneFreqState : State :=
  { State.resetWith smallP with
    mem := { Memory.unwritten 0 with freq := { epoch := 0, cells := [(0, 0), (1, 4), (2, 0), (3, 0)] } } }

/-- The tree of vector TB-1 with the symbols 0, 1, 2 in place of 'a', 'b', 'c', and its code table. -/
def threeLeaf : State :=
  { freqState with
    treeState := .built, tableState := .ready, leaves := 3, nodeCount := 5, root := 4
    mem := { freqState.mem with
      node := { epoch := 0, cells :=
        [(0, .leaf 2 0), (1, .leaf 3 1), (2, .leaf 4 2), (3, .internal 5 0 1), (4, .internal 9 2 3)] }
      code := { epoch := 0, cells := [(0, [true, false]), (1, [true, true]), (2, [false]), (3, [])] } } }

/-- The single-leaf tree of vector TB-7 with the symbol 1 in place of 'a'. -/
def oneLeaf : State :=
  { oneFreqState with
    treeState := .built, tableState := .ready, leaves := 1, nodeCount := 1, root := 0
    mem := { oneFreqState.mem with
      node := { epoch := 0, cells := [(0, .leaf 4 1)] }
      code := { epoch := 0, cells := [(0, []), (1, [false]), (2, []), (3, [])] } } }

/-- The EMPTY tree and table of vector TB-8. -/
def emptyTree : State :=
  { noFreqState with
    treeState := .empty, tableState := .empty
    mem := { noFreqState.mem with code := { epoch := 0, cells := [(0, []), (1, []), (2, []), (3, [])] } } }

/-- A state with an artifact in ART. -/
def withArt (s : State) (bytes : List Byte) : State :=
  { s with artLen := BitVec.ofNat 32 bytes.length,
           mem := { s.mem with art := s.mem.art.writeList 0 bytes } }

/-- A state with a text in TEXT. -/
def withText (s : State) (text : List Symbol) : State :=
  { s with textLen := BitVec.ofNat 32 text.length,
           mem := { s.mem with text := s.mem.text.writeList 0 text } }

/-- The tree of vector TB-1 with its own symbols, on the default parameters. -/
def tb1 : State :=
  { State.reset with
    treeState := .built, leaves := 3, nodeCount := 5, root := 4
    mem := { Memory.unwritten 0 with
      node := { epoch := 0, cells :=
        [(0, .leaf 2 0x61), (1, .leaf 3 0x62), (2, .leaf 4 0x63), (3, .internal 5 0 1), (4, .internal 9 2 3)] } } }

/-- TB-1 with its code table READY. -/
def tb1Ready : State :=
  { tb1 with
    tableState := .ready
    mem := { tb1.mem with code := { epoch := 0, cells :=
      [(0x61, [true, false]), (0x62, [true, true]), (0x63, [false]), (0x64, [])] } } }

/-- "aabbbcccc". -/
def w4Text : List Symbol := [0x61, 0x61, 0x62, 0x62, 0x62, 0x63, 0x63, 0x63, 0x63]

theorem threeLeaf_inv : threeLeaf.Inv :=
  ⟨by decide, by decide, by decide, ⟨by decide, fun _ => by decide +kernel⟩, by decide, by decide,
    fun _ => by decide +kernel⟩
theorem oneLeaf_inv : oneLeaf.Inv :=
  ⟨by decide, by decide, by decide, ⟨by decide, fun _ => by decide +kernel⟩, by decide, by decide,
    fun _ => by decide +kernel⟩
theorem emptyTree_inv : emptyTree.Inv :=
  ⟨by decide, by decide, by decide, ⟨by decide, by decide⟩, by decide, by decide, by decide⟩

/-! ## One step of each command, expected values from spec/95_test_vectors.md -/

/-- CT-1: from RESULT = 5, ERR_INFO = 2, ERR = 1, NOP leaves RESULT = 0, ERR_INFO = 0, ERR = 1. -/
theorem test_nop_keeps_err :
    (let t := after (exec .nop { State.reset with result := 5, errInfo := 2, err := true })
     (t.result, t.errInfo, t.err) = (0, 0, true)) := by decide

/-- CT-2: from STATUS = 0xA6, CLRERR leaves STATUS = 0xA0. -/
theorem test_clrerr_status :
    (after (exec .clrerr { threeLeaf with err := true, overrun := true, cmdLatch := some 0 })).statusWord
      = 0xA0#32 := by decide

/-- CT-3: CLEAR leaves STATUS = 0 and keeps FREQ. -/
theorem test_clear_status :
    (let t := after (exec .clear threeLeaf)
     (t.statusWord, t.nodeCount, t.freqAt 0) = (0x00#32, 0, 2)) := by decide

/-- CT-4: CLRFREQ makes FREQ read 0; STATUS stays 0xA0 and LEAVES 3. -/
theorem test_clrfreq :
    (let t := after (exec .clrfreq threeLeaf)
     (t.freqAt 0, t.freqAt 3, t.statusWord, t.leaves) = (0, 0, 0xA0#32, 3)) := by decide

/-- TB-1: the nodes of counts 2, 3, 4. -/
theorem test_buildTree_tb1 :
    (let t := after (exec .buildTree freqState)
     (t.mem.node.cells, t.leaves, t.nodeCount, t.root) = (threeLeaf.mem.node.cells, 3, 5, 4)) := by
  decide +kernel

/-- TB-5: a tie between a leaf and an internal node in the second merge (counts 1, 1, 2, 1). -/
theorem test_buildTree_tb5 :
    ((buildNodes [.leaf 1 0, .leaf 1 1, .leaf 2 2, .leaf 1 3]).drop 4
      = [.internal 2 0 1, .internal 3 3 2, .internal 5 4 5]) := by decide +kernel

/-- R150's example: the codes of TB-1, on the default parameters. -/
theorem test_genTable_tb1 :
    (let t := after (exec .genTable tb1)
     (t.codeAt 0x61, t.codeAt 0x62, t.codeAt 0x63, t.codeAt 0x64, t.statusWord)
       = ([true, false], [true, true], [false], [], 0xA0#32)) := by decide +kernel

/-- TB-7: the code of a single leaf is "0". -/
theorem test_genTable_single :
    ((after (exec .genTable { oneLeaf with tableState := .none })).codeAt 1 = [false]) := by decide +kernel

/-- EC-1 (W4): the artifact of "aabbbcccc". -/
theorem test_encode_w4 :
    (let t := after (exec .encode (withText tb1Ready w4Text))
     (t.result, t.mem.art.cells, t.artLen, t.rawBits, t.pad)
       = (0, [(0, 0x02), (1, 0xAF), (2, 0xC0)], 3, 14, 2)) := by decide +kernel

/-- EC-14: `ART_CAP = 2`, "aabbd": the overflow at index 3 comes before the missing code at 4. -/
theorem test_encode_overflow_first :
    (let s := withText tb1Ready [0x61, 0x61, 0x62, 0x62, 0x64]
     let t := after (exec .encode { s with params := { s.params with artCap := 2 } })
     (t.result, t.errInfo, t.artLen) = (0x06, 3, 0)) := by decide +kernel

/-- DC-2: non-zero filler bits are ignored; the text of W4 comes back. -/
theorem test_decode_w4 :
    (let t := after (exec .decode (withArt tb1Ready [0x02, 0xAF, 0xC3]))
     (t.result, t.mem.dtext.cells.map Prod.snd, t.dtextLen, t.rawBits, t.pad)
       = (0, w4Text, 9, 14, 2)) := by decide +kernel

/-- DC-8: a residual at the end of the payload. -/
theorem test_decode_residual :
    (let t := after (exec .decode (withArt tb1Ready [0x07, 0x80]))
     (t.result, t.errInfo, t.dtextLen) = (0x08, 0x80000001, 0)) := by decide +kernel

/-! ## Host bus: 95_test_vectors.md sections 8 and 10 -/

/-- MM-1, MM-2, MM-4, MM-6: ID at 0 and at 3, PARAM0, CMD, an unmapped offset, FREQ[256]. -/
theorem test_bus_reads :
    [0x000000#22, 0x000003#22, 0x000004#22, 0x000020#22, 0x000050#22, 0x001400#22].map State.reset.memRead
      = [0x48554631#32, 0x48554631#32, 0x00001808#32, 0, 0, 0] := by decide +kernel

/-- MM-5: a write keeps the low FREQ_W, SYM_W or 8 bits. -/
theorem test_bus_truncation :
    [(hostWrite 0x100000#22 0x00000161#32 State.reset).memRead 0x100000#22,
     (hostWrite 0x200004#22 0x1FF#32 State.reset).memRead 0x200004#22,
     (hostWrite 0x001184#22 0x01000005#32 State.reset).memRead 0x001184#22]
      = [0x61#32, 0xFF#32, 0x5#32] := by decide +kernel

/-- The NODE and CODE words of TB-1: NODE[0] word 1, NODE[4] words 0 and 3, CLEN['a'] and its code "10". -/
theorem test_bus_tables :
    [0x010004#22, 0x010040#22, 0x01004C#22, 0x010050#22, 0x046100#22, 0x046104#22].map tb1Ready.memRead
      = [0x80000061#32, 9, 3, 0, 2, 0x80000000#32] := by decide +kernel

/-- P5 (b): a write that lands while BUSY = 1 is dropped and sets OVERRUN. -/
theorem test_write_while_busy :
    (let t := hostWrite 0x30#22 7 { State.reset with textLen := 1, cmdLatch := some 0 }
     (t.textLen, t.statusWord) = (1, 0x05#32)) := by decide

/-! ## Witnesses: for each obligation with hypotheses, a state and operands that meet them -/

theorem witness_StepRunsDecodedCommand :
    (let s : State := { State.reset with cmdLatch := some 0x11000000#32 }
     s.cmdLatch = some 0x11000000#32 ∧ decode 0x11000000#32 = .ok .genTable ∧ s.agenda = [] ∧
     ({ s with agenda := [.core, .wait] } : State).agenda = .core :: [.wait]) ∧
    decodeTableWord 32 0x30000000 = some .decode := by decide

theorem witness_StepRunsIllegalWord :
    (let s : State := { State.reset with cmdLatch := some 0x04000000#32 }
     s.cmdLatch = some 0x04000000#32 ∧ decode 0x04000000#32 = .error .opReserved ∧ s.agenda = [] ∧
     ({ s with agenda := [.core, .wait] } : State).agenda = .core :: [.wait]) := by decide

theorem witness_OtherWordsAreIllegal :
    (0x00000001#32).toNat % 2 ^ 24 ≠ 0 ∧
    (0xFF000000#32).toNat / 2 ^ 24 ∉ [0x00, 0x01, 0x02, 0x03, 0x10, 0x11, 0x20, 0x30] := by decide

theorem witness_CoreIdlesWithoutCommand :
    State.reset.cmdLatch = none ∧ State.reset.agenda = [] ∧
    ({ State.reset with agenda := [.core] } : State).agenda = .core :: [] := by decide

theorem witness_ClrfreqZeroesFreq : 3 < freqState.params.nsym ∧ freqState.params.nsym ≤ 4 := by decide

theorem witness_BuildTreeWritesLeavesAndRegisters :
    0 < freqState.params.nsym ∧ freqState.freqAt 0 ≠ 0 ∧ 2 * freqState.freqCount - 1 ≤ 5 := by decide

theorem witness_BuildTreeGivesTreeShape :
    freqState.params.legal = true ∧ freqState.EntriesFit ∧ 1 ≤ freqState.freqCount := by decide

/-- At the first merge of TB-1 the queue holds 0, 1 and 2: the children are 0 and 1, and 2 is the other member. -/
theorem witness_BuildTreeMergesTwoLeast :
    freqState.params.legal = true ∧ freqState.EntriesFit ∧ ∃ t, exec .buildTree freqState = .next t ∧
      3 < t.nodeCount.toNat ∧ t.leafCount ≤ 3 ∧ t.queuedAt 3 2 ∧ 2 ≠ t.leftAt 3 ∧ 2 ≠ t.rightAt 3 :=
  ⟨by decide, by decide, _, rfl, by decide +kernel, by decide +kernel, by decide +kernel, by decide +kernel,
    by decide +kernel⟩

theorem witness_BuildTreeDegenerateCases :
    (1 < oneFreqState.params.nsym ∧ oneFreqState.freqAt 1 ≠ 0 ∧
      ∀ j < oneFreqState.params.nsym, j ≠ 1 → oneFreqState.freqAt j = 0) ∧
    ∀ j < noFreqState.params.nsym, noFreqState.freqAt j = 0 := by decide

theorem witness_BuildTreeDependsOnFreqOnly :
    freqState.params.symW = threeLeaf.params.symW ∧
    (∀ i < freqState.params.nsym, freqState.freqAt i = threeLeaf.freqAt i) ∧
    ∃ t1 t2, exec .buildTree freqState = .next t1 ∧ exec .buildTree threeLeaf = .next t2 ∧
      4 < t1.nodeCount.toNat :=
  ⟨by decide, by decide, _, _, rfl, rfl, by decide +kernel⟩

theorem witness_GenTableNeedsTree : State.reset.treeState = .none := by decide

theorem witness_GenTableWritesOnlyCode :
    threeLeaf.treeState ≠ .none ∧ emptyTree.treeState = .empty ∧ 3 < emptyTree.params.nsym := by decide

theorem witness_GenTableWritesTreePaths :
    threeLeaf.params.legal = true ∧ threeLeaf.treeState = .built ∧ threeLeaf.BuiltShape ∧
    oneLeaf.BuiltShape ∧ emptyTree.treeState = .empty :=
  ⟨by decide, by decide, by decide +kernel, by decide +kernel, by decide⟩

theorem witness_GenTableIsReproducible :
    (∃ t u, exec .genTable threeLeaf = .next t ∧ exec .genTable t = .next u) ∧
    freqState.params.legal = true ∧ freqState.params.symW = threeLeaf.params.symW ∧
    (∀ i < freqState.params.nsym, freqState.freqAt i = threeLeaf.freqAt i) ∧
    ∃ t1 t2 u1 u2, exec .buildTree freqState = .next t1 ∧ exec .buildTree threeLeaf = .next t2 ∧
      exec .genTable t1 = .next u1 ∧ exec .genTable t2 = .next u2 :=
  ⟨⟨_, _, rfl, rfl⟩, by decide, by decide, by decide, _, _, _, _, rfl, rfl, rfl, rfl⟩

theorem witness_CodesArePrefixFree :
    threeLeaf.Inv ∧ threeLeaf.tableState = .ready ∧ 0 < threeLeaf.params.nsym ∧ 1 < threeLeaf.params.nsym ∧
    threeLeaf.codeAt 0 ≠ [] ∧ threeLeaf.codeAt 1 ≠ [] :=
  ⟨threeLeaf_inv, by decide, by decide, by decide, by decide, by decide⟩

theorem witness_CodesAreComplete :
    threeLeaf.Inv ∧ threeLeaf.tableState = .ready ∧ 2 ≤ threeLeaf.leafCount :=
  ⟨threeLeaf_inv, by decide, by decide⟩

theorem witness_CodeLengthBound :
    threeLeaf.Inv ∧ threeLeaf.tableState = .ready ∧ 2 ≤ threeLeaf.leafCount ∧
    oneLeaf.Inv ∧ oneLeaf.tableState = .ready ∧ oneLeaf.leafCount = 1 :=
  ⟨threeLeaf_inv, by decide, by decide, oneLeaf_inv, by decide, by decide⟩

theorem witness_SymOfIsTreeWalk :
    threeLeaf.Inv ∧ 2 ≤ threeLeaf.leafCount ∧ threeLeaf.symOf [true, true] = some 1 ∧
    oneLeaf.Inv ∧ oneLeaf.leafCount = 1 ∧ oneLeaf.symOf [false] = some 1 :=
  ⟨threeLeaf_inv, by decide, by decide +kernel, oneLeaf_inv, by decide, by decide +kernel⟩

theorem witness_ArtifactBitOrder : 15 < 8 * ([0x02, 0xAF] : List Byte).length := by decide

/-- Header 9, header 8 with one byte, and header 8 with two bytes: the values where the clauses meet. -/
theorem witness_UnpackHeaderCases :
    8 < (0x09#8).toNat ∧ ((0x08#8).toNat ≤ 8 ∧ 8 * (0 + 1) < 8 + (0x08#8).toNat) ∧
    ((0x08#8).toNat ≤ 8 ∧ 8 + (0x08#8).toNat ≤ 8 * (1 + 1)) := by decide

theorem witness_UnpackIgnoresFiller :
    ([0xAF, 0xC0] : List Byte).length = ([0xAF, 0xC3] : List Byte).length ∧
    (unpack8 [0xAF, 0xC0]).take (8 * 2 - 2) = (unpack8 [0xAF, 0xC3]).take (8 * 2 - 2) := by decide +kernel

theorem witness_EncodeWithoutTableOrLength :
    State.reset.tableState = .none ∧
    (let s : State := { threeLeaf with textLen := 5 }
     s.tableState ≠ .none ∧ s.params.textCap < s.textLen.toNat) := by decide

theorem witness_EncodePacksTheCodes :
    (let s := withText threeLeaf [0, 2, 1, 1]
     s.tableState ≠ .none ∧ s.textLen.toNat ≤ s.params.textCap ∧
     (∀ i < s.textLen.toNat, s.codeAt (s.textAt i).toNat ≠ []) ∧
     (s.rawBitsOf s.textLen.toNat).length / 8 + 2 ≤ s.params.artCap) := by decide +kernel

/-- A missing code at index 1, and an overflow at index 3 with `ART_CAP = 2`. -/
theorem witness_EncodeReportsFirstFailure :
    (let s := withText threeLeaf [0, 3]
     s.tableState ≠ .none ∧ s.textLen.toNat ≤ s.params.textCap ∧ 1 < s.textLen.toNat ∧
     (∀ j < 1, s.codeAt (s.textAt j).toNat ≠ [] ∧ (s.rawBitsOf (j + 1)).length / 8 + 2 ≤ s.params.artCap) ∧
     s.codeAt (s.textAt 1).toNat = []) ∧
    (let s := withText { threeLeaf with params := { smallP with artCap := 2 } } [0, 1, 1, 0]
     s.tableState ≠ .none ∧ s.textLen.toNat ≤ s.params.textCap ∧ 3 < s.textLen.toNat ∧
     (∀ j < 3, s.codeAt (s.textAt j).toNat ≠ [] ∧ (s.rawBitsOf (j + 1)).length / 8 + 2 ≤ s.params.artCap) ∧
     s.codeAt (s.textAt 3).toNat ≠ [] ∧ s.params.artCap < (s.rawBitsOf (3 + 1)).length / 8 + 2) := by
  decide +kernel

/-- ENCODE fails with NO_TABLE after reset and with MISSING_CODE on a text with no code, and succeeds on one with. -/
theorem witness_EncodeChangesOnlyItsOutputs :
    (∃ t, exec .encode State.reset = .next t ∧ t.result = 0x03) ∧
    (∃ t, exec .encode (withText threeLeaf [3]) = .next t ∧ t.result ≠ 0) ∧
    (∃ t, exec .encode (withText threeLeaf [0]) = .next t ∧ t.result = 0) :=
  ⟨⟨_, rfl, by decide⟩, ⟨_, rfl, by decide +kernel⟩, ⟨_, rfl, by decide +kernel⟩⟩

theorem witness_DecodeEarlyFailures :
    State.reset.tableState = .none ∧
    (let s : State := { threeLeaf with artLen := 4 }
     s.tableState ≠ .none ∧ s.params.artCap < s.artLen.toNat) ∧
    (let s := withArt threeLeaf [0x08]
     s.tableState ≠ .none ∧ s.artLen.toNat ≤ s.params.artCap ∧
     unpack (s.artBytes s.artLen.toNat) = .error { code := .corruptHeader, info := 0x802#32 }) := by
  decide +kernel

/-- The symbols 0, 2, 1 with their codes "10", "0", "11" behind the header 3. -/
theorem witness_DecodeReadsCodes :
    (let s := withArt threeLeaf [0x03, 0b10011000]
     s.Inv ∧ s.tableState ≠ .none ∧ s.artLen.toNat ≤ s.params.artCap ∧
     (∀ x ∈ [0, 2, 1], x < s.params.nsym ∧ s.codeAt x ≠ []) ∧ [0, 2, 1].length ≤ s.params.dtextCap ∧
     unpack (s.artBytes s.artLen.toNat) = .ok (0x03, [0, 2, 1].flatMap s.codeAt)) :=
  ⟨⟨by decide, by decide, by decide +kernel, ⟨by decide, fun _ => by decide +kernel⟩, by decide, by decide,
    fun _ => by decide +kernel⟩, by decide, by decide, by decide, by decide, by decide +kernel⟩

/-- The bits "001" behind the header 5 with a single leaf, and the bit "1" with an EMPTY table. -/
theorem witness_DecodeDeadEnds :
    (let s := withArt oneLeaf [0x05, 0b00100000]
     s.artLen.toNat ≤ s.params.artCap ∧ s.tableState = .ready ∧ s.leaves = 1 ∧ 2 ≤ s.params.dtextCap ∧
     unpack (s.artBytes s.artLen.toNat) = .ok (0x05, List.replicate 2 false ++ true :: [])) ∧
    (let s := withArt emptyTree [0x07, 0x80]
     s.artLen.toNat ≤ s.params.artCap ∧ s.tableState = .empty ∧
     unpack (s.artBytes s.artLen.toNat) = .ok (0x07, true :: [])) := by decide +kernel

/-- The symbol 2, then "1", which ends at the internal node 3. -/
theorem witness_DecodeResidual :
    (let s := withArt threeLeaf [0x06, 0b01000000]
     s.Inv ∧ s.tableState = .ready ∧ 2 ≤ s.leafCount ∧ s.artLen.toNat ≤ s.params.artCap ∧
     (∀ x ∈ [2], x < s.params.nsym ∧ s.codeAt x ≠ []) ∧ [2].length ≤ s.params.dtextCap ∧
     [true] ≠ [] ∧ s.walk s.root.toNat [true] = some 3 ∧ s.isLeafAt 3 = false ∧
     unpack (s.artBytes s.artLen.toNat) = .ok (0x06, [2].flatMap s.codeAt ++ [true])) :=
  ⟨⟨by decide, by decide, by decide +kernel, ⟨by decide, fun _ => by decide +kernel⟩, by decide, by decide,
    fun _ => by decide +kernel⟩, by decide, by decide, by decide, by decide, by decide, by decide,
    by decide +kernel, by decide +kernel, by decide +kernel⟩

/-- Four times the symbol 2 with `DTEXT_CAP = 3`, and one more bit. -/
theorem witness_DecodeOverflow :
    (let s := withArt threeLeaf [0x03, 0b00001000]
     s.Inv ∧ s.tableState = .ready ∧ s.artLen.toNat ≤ s.params.artCap ∧
     (∀ x ∈ [2, 2, 2, 2], x < s.params.nsym ∧ s.codeAt x ≠ []) ∧
     [2, 2, 2, 2].length = s.params.dtextCap + 1 ∧
     unpack (s.artBytes s.artLen.toNat) = .ok (0x03, [2, 2, 2, 2].flatMap s.codeAt ++ [true])) :=
  ⟨⟨by decide, by decide, by decide +kernel, ⟨by decide, fun _ => by decide +kernel⟩, by decide, by decide,
    fun _ => by decide +kernel⟩, by decide, by decide, by decide, by decide, by decide +kernel⟩

/-- "0" (the symbol 2) ends with an empty accumulator, "1" does not. -/
theorem witness_DecodeMatchesAccumulator :
    (let s := withArt threeLeaf [0x07, 0x00]
     s.Inv ∧ s.tableState ≠ .none ∧ s.artLen.toNat ≤ s.params.artCap ∧
     unpack (s.artBytes s.artLen.toNat) = .ok (0x07, [false]) ∧
     (s.accumulate [false] [] []).2.length ≤ s.params.dtextCap ∧ (s.accumulate [false] [] []).1 = [] ∧
     (s.accumulate [true] [] []).1 ≠ []) :=
  ⟨⟨by decide, by decide, by decide +kernel, ⟨by decide, fun _ => by decide +kernel⟩, by decide, by decide,
    fun _ => by decide +kernel⟩, by decide, by decide, by decide +kernel, by decide +kernel, by decide +kernel,
    by decide +kernel⟩

theorem witness_DecodeMatchesAccumulator_residual :
    (let s := withArt threeLeaf [0x07, 0x80]
     s.artLen.toNat ≤ s.params.artCap ∧ unpack (s.artBytes s.artLen.toNat) = .ok (0x07, [true]) ∧
     (s.accumulate [true] [] []).2.length ≤ s.params.dtextCap ∧ (s.accumulate [true] [] []).1 ≠ []) := by
  decide +kernel

theorem witness_DecodeChangesOnlyItsOutputs :
    (∃ t, exec .decode State.reset = .next t ∧ t.result ≠ 0) ∧
    (∃ t, exec .decode (withArt threeLeaf [0x07, 0x00]) = .next t ∧ t.result = 0) :=
  ⟨⟨_, rfl, by decide⟩, ⟨_, rfl, by decide +kernel⟩⟩

/-- ENCODE of 0, 2, 1, then NOP and CLRERR. -/
theorem witness_EncodeDecodeRoundTrip :
    (withText threeLeaf [0, 2, 1]).Inv ∧
    ∃ t u, exec .encode (withText threeLeaf [0, 2, 1]) = .next t ∧ t.result = 0 ∧
      (∀ i ∈ [Instr.nop, Instr.clrerr], i = .nop ∨ i = .clrerr) ∧ execAll [.nop, .clrerr] t = .next u ∧
      (withText threeLeaf [0, 2, 1]).textLen.toNat ≤ (withText threeLeaf [0, 2, 1]).params.dtextCap :=
  ⟨⟨by decide, by decide, by decide +kernel, ⟨by decide, fun _ => by decide +kernel⟩, by decide, by decide,
    fun _ => by decide +kernel⟩, _, _, rfl, by decide +kernel, by decide, rfl, by decide⟩

theorem witness_ErrorsAreReportedAndSticky :
    (∃ t, exec .nop State.reset = .next t ∧ t.result = 0) ∧
    (∃ t, exec .genTable State.reset = .next t ∧ t.result ≠ 0) ∧
    (∃ t, exec .clrerr State.reset = .next t) :=
  ⟨⟨_, rfl, by decide⟩, ⟨_, rfl, by decide⟩, ⟨_, rfl⟩⟩

theorem witness_EachTableHasOneWriter :
    ∃ t, exec .buildTree freqState = .next t ∧ t.mem.node ≠ freqState.mem.node :=
  ⟨_, rfl, by decide +kernel⟩

theorem witness_RegisterReads : State.reset.params.legal = true := by decide

theorem witness_AddressMap :
    Params.default.legal = true ∧ 255 < Params.default.nsym ∧ 510 < Params.default.nodeMax ∧
    65535 < Params.default.textCap ∧ target Params.default 0x0013FF#22 = .freq 255 ∧
    target Params.default 0x011FEC#22 = .node 510 3 ∧ target Params.default 0x04FFFC#22 = .code 255 63 ∧
    target Params.default 0x13FFFC#22 = .text 65535 ∧ target Params.default 0x23FFFC#22 = .art 65535 ∧
    target Params.default 0x33FFFC#22 = .dtext 65535 ∧ target Params.default 0x00004F#22 = .reg .root ∧
    (0x00004F#22).toNat / 4 * 4 = registerOffset .root ∧ target Params.default 0x000050#22 = .unmapped ∧
    target Params.default 0x000014#22 = .unmapped ∧ target Params.default 0x001400#22 = .unmapped ∧
    target Params.default 0x340000#22 = .unmapped := by decide +kernel

theorem witness_LowAddressBitsIgnored : (0x000003#22).toNat / 4 = (0x000000#22).toNat / 4 := by decide

theorem witness_IgnoredAccesses :
    State.reset.cmdLatch = none ∧ target State.reset.params 0x000050#22 = .unmapped ∧
    target State.reset.params 0x001400#22 = .unmapped ∧ target State.reset.params 0x010000#22 = .node 0 0 ∧
    target State.reset.params 0x040000#22 = .code 0 0 ∧ target State.reset.params 0x300000#22 = .dtext 0 ∧
    target State.reset.params 0x000024#22 = .reg .status := by decide +kernel

theorem witness_EntryWriteThenRead :
    State.reset.params.legal = true ∧ State.reset.cmdLatch = none ∧
    target State.reset.params 0x001184#22 = .freq 0x61 ∧ target State.reset.params 0x100000#22 = .text 0 ∧
    target State.reset.params 0x200004#22 = .art 1 ∧ target State.reset.params 0x000030#22 = .reg .textLen ∧
    target State.reset.params 0x000034#22 = .reg .artLen := by decide +kernel

theorem witness_AccessWhileBusy :
    (let s : State := { State.reset with cmdLatch := some 0 }
     s.cmdLatch = some 0 ∧ target s.params 0x000050#22 = .unmapped ∧
     target s.params 0x000024#22 = .reg .status) := by decide +kernel

theorem witness_HostReadChangesNothing : State.reset.cmdLatch = none := by decide

theorem witness_CmdWriteLatches :
    (let s : State := { State.reset with agenda := [.write 0x20#22 0x01000000#32, .wait] }
     s.agenda = .write 0x20#22 0x01000000#32 :: [.wait] ∧ s.cmdLatch = none ∧
     ({ s with cmdLatch := some 0 } : State).cmdLatch = some 0) := by decide

theorem witness_TableWindowReads :
    target threeLeaf.params 0x010044#22 = .node 4 1 ∧ threeLeaf.treeState = .built ∧
    4 < threeLeaf.nodeCount.toNat ∧ target threeLeaf.params 0x040104#22 = .code 1 1 ∧
    threeLeaf.tableState ≠ .none ∧ target threeLeaf.params 0x300008#22 = .dtext 2 ∧
    threeLeaf.dtextLen.toNat ≤ 2 ∧ State.reset.tableState = .none ∧ State.reset.treeState ≠ .built ∧
    2 < ({ threeLeaf with dtextLen := 3 } : State).dtextLen.toNat := by decide +kernel

theorem witness_ResetPutsRegistersAtResetValues :
    ({ threeLeaf with cmdLatch := some 0, agenda := [.reset] } : State).agenda = .reset :: [] := by decide

theorem witness_StatusPollsDoNotMatter :
    (let s : State := { State.reset with
      cmdLatch := some 0, agenda := [.read 0x24#22, .read 0x24#22, .core, .wait] }
     s.cmdLatch.isSome = true ∧ s.agenda = List.replicate 2 (.read 0x24#22) ++ .core :: [.wait]) := by decide

theorem witness_StepKeepsMemoryCanonical :
    (let s : State := { threeLeaf with agenda := [.write 0x001000#22 7] }
     s.mem.wf ∧ ∃ t, step s = .next t) :=
  ⟨by decide, _, rfl⟩

theorem witness_StepKeepsTreeAndTableConsistent :
    threeLeaf.Inv ∧ ∃ t, step threeLeaf = .next t := ⟨threeLeaf_inv, _, rfl⟩

theorem witness_ResetMeetsInvariant : smallP.legal = true := by decide

end Sys2Proof.Machine.Tests
end

section
/-! PROOFS. The host bus (spec/20_memory.md): one rule per kind of access and target, and the obligations about writes
and reads of the address map. -/

namespace Sys2Proof.Machine

/-! ### Truncation (R6, R64) -/

@[simp] theorem truncTo_toNat {w : Nat} (n : Nat) (v : BitVec w) : (truncTo n v).toNat = v.toNat % 2 ^ n := by
  have hlt : v.toNat % 2 ^ n < 2 ^ w := Nat.lt_of_le_of_lt (Nat.mod_le _ _) v.isLt
  rw [truncTo, BitVec.toNat_ofNat, Nat.mod_eq_of_lt hlt]

/-- A symbol has 10 bits, so the low `n ≤ 10` bits of a number fit. -/
theorem toNat_ofNat_ten_mod {n : Nat} (hn : n ≤ 10) (x : Nat) : (BitVec.ofNat 10 (x % 2 ^ n)).toNat = x % 2 ^ n := by
  have hlt : x % 2 ^ n < 2 ^ 10 :=
    Nat.lt_of_lt_of_le (Nat.mod_lt _ (Nat.two_pow_pos n)) (Nat.pow_le_pow_right Nat.two_pos hn)
  rw [BitVec.toNat_ofNat, Nat.mod_eq_of_lt hlt]

theorem Params.symW_le_of_legal {P : Params} (h : P.legal = true) : P.symW ≤ 10 := by
  simp only [Params.legal, Params.symWOk, Bool.and_eq_true, decide_eq_true_eq] at h
  omega

/-! ### A table entry that has been written -/

theorem State.freqAt_of_read {s : State} {i : Nat} {v : Word} (h : s.mem.freq.read i = some v) :
    s.freqAt i = v := by
  simp [State.freqAt, h]

theorem State.textAt_of_read {s : State} {i : Nat} {v : Symbol} (h : s.mem.text.read i = some v) :
    s.textAt i = v := by
  simp [State.textAt, h]

theorem State.artAt_of_read {s : State} {k : Nat} {v : Byte} (h : s.mem.art.read k = some v) :
    s.artAt k = v := by
  simp [State.artAt, h]

/-! ### Reads, by target (R66, R73) -/

section Reads

variable {s : State} {a : Addr}

theorem memRead_unmapped (h : target s.params a = .unmapped) : s.memRead a = 0 := by
  simp [State.memRead, h]

theorem memRead_reg {r : Reg} (h : target s.params a = .reg r) : s.memRead a = s.readReg r := by
  simp [State.memRead, h]

theorem memRead_freq {i : Nat} (h : target s.params a = .freq i) : s.memRead a = s.freqAt i := by
  simp [State.memRead, h]

theorem memRead_text {i : Nat} (h : target s.params a = .text i) : s.memRead a = (s.textAt i).setWidth 32 := by
  simp [State.memRead, h]

theorem memRead_art {k : Nat} (h : target s.params a = .art k) : s.memRead a = (s.artAt k).setWidth 32 := by
  simp [State.memRead, h]

theorem busAnswer_of_readable (h : readableWhileBusy (target s.params a) = true) : s.busAnswer a = s.memRead a := by
  simp [State.busAnswer, h]

/-- R65: whether BUSY is 0 or 1. -/
theorem busAnswer_unmapped (h : target s.params a = .unmapped) : s.busAnswer a = 0 := by
  rw [busAnswer_of_readable (by rw [h]; rfl), memRead_unmapped h]

end Reads

/-! ### Writes, by BUSY and target (R67, R72) -/

section Writes

variable {s : State} {a : Addr} (v : Word)

theorem hostWrite_of_busy {w : Word} (h : s.cmdLatch = some w) : hostWrite a v s = { s with overrun := true } := by
  obtain ⟨_, hw⟩ | ⟨hnone, _⟩ := hostWrite_cases a v s
  · exact hw
  · rw [h] at hnone; cases hnone

theorem hostWrite_of_idle (h : s.cmdLatch = none) : hostWrite a v s = s.memWrite a v := by
  obtain ⟨⟨w, hsome⟩, _⟩ | ⟨_, hw⟩ := hostWrite_cases a v s
  · rw [h] at hsome; cases hsome
  · exact hw

@[simp] theorem memWrite_params (s : State) (a : Addr) (v : Word) : (s.memWrite a v).params = s.params := by
  unfold State.memWrite
  split <;> rfl

theorem memWrite_unmapped (h : target s.params a = .unmapped) : s.memWrite a v = s := by
  simp [State.memWrite, h]

theorem memWrite_node {n w : Nat} (h : target s.params a = .node n w) : s.memWrite a v = s := by
  simp [State.memWrite, h]

theorem memWrite_code {i k : Nat} (h : target s.params a = .code i k) : s.memWrite a v = s := by
  simp [State.memWrite, h]

theorem memWrite_dtext {i : Nat} (h : target s.params a = .dtext i) : s.memWrite a v = s := by
  simp [State.memWrite, h]

/-- R69: every register but CMD, TEXT_LEN and ART_LEN is read-only. -/
theorem memWrite_readOnly {r : Reg} (h : target s.params a = .reg r) (hcmd : r ≠ .cmd) (htext : r ≠ .textLen)
    (hart : r ≠ .artLen) : s.memWrite a v = s := by
  cases r <;> simp_all [State.memWrite]

theorem memWrite_textLen (h : target s.params a = .reg .textLen) : s.memWrite a v = { s with textLen := v } := by
  simp [State.memWrite, h]

theorem memWrite_artLen (h : target s.params a = .reg .artLen) : s.memWrite a v = { s with artLen := v } := by
  simp [State.memWrite, h]

theorem memWrite_freq {i : Nat} (h : target s.params a = .freq i) :
    s.memWrite a v =
      { s with mem := { s.mem with freq := s.mem.freq.write i (truncTo s.params.freqW v) } } := by
  simp [State.memWrite, h]

theorem memWrite_text {i : Nat} (h : target s.params a = .text i) :
    s.memWrite a v =
      { s with mem := { s.mem with
        text := s.mem.text.write i (BitVec.ofNat 10 (v.toNat % 2 ^ s.params.symW)) } } := by
  simp [State.memWrite, h]

theorem memWrite_art {k : Nat} (h : target s.params a = .art k) :
    s.memWrite a v = { s with mem := { s.mem with art := s.mem.art.write k (v.setWidth 8) } } := by
  simp [State.memWrite, h]

/-! ### An entry reads back the low bits that were written (R64) -/

theorem memRead_memWrite_freq {i : Nat} (h : target s.params a = .freq i) :
    ((s.memWrite a v).memRead a).toNat = v.toNat % 2 ^ s.params.freqW := by
  have htarget : target (s.memWrite a v).params a = .freq i := by rwa [memWrite_params]
  have hread : (s.memWrite a v).mem.freq.read i = some (truncTo s.params.freqW v) := by simp [memWrite_freq v h]
  rw [memRead_freq htarget, State.freqAt_of_read hread, truncTo_toNat]

theorem memRead_memWrite_text {i : Nat} (hP : s.params.legal = true) (h : target s.params a = .text i) :
    ((s.memWrite a v).memRead a).toNat = v.toNat % 2 ^ s.params.symW := by
  have htarget : target (s.memWrite a v).params a = .text i := by rwa [memWrite_params]
  have hread : (s.memWrite a v).mem.text.read i = some (BitVec.ofNat 10 (v.toNat % 2 ^ s.params.symW)) := by
    simp [memWrite_text v h]
  rw [memRead_text htarget, State.textAt_of_read hread, BitVec.toNat_setWidth_of_le (by decide),
    toNat_ofNat_ten_mod (Params.symW_le_of_legal hP)]

theorem memRead_memWrite_art {k : Nat} (h : target s.params a = .art k) :
    ((s.memWrite a v).memRead a).toNat = v.toNat % 2 ^ 8 := by
  have htarget : target (s.memWrite a v).params a = .art k := by rwa [memWrite_params]
  have hread : (s.memWrite a v).mem.art.read k = some (v.setWidth 8) := by simp [memWrite_art v h]
  rw [memRead_art htarget, State.artAt_of_read hread, BitVec.toNat_setWidth_of_le (by decide),
    BitVec.toNat_setWidth]

end Writes

/-! ### The obligations -/

/-- Settles O51: each window's write rule gives the one table that changes, and its read-back rule the value. -/
theorem entryWriteThenRead : Obligations.EntryWriteThenRead := by
  intro s a v hP hidle
  rw [hostWrite_of_idle v hidle]
  refine ⟨fun i h => ?freq, fun i h => ?text, fun k h => ?art, memWrite_textLen v, memWrite_artLen v⟩
  case freq =>
    exact ⟨_, memWrite_freq v h, Table.write_epoch _ _ _, memRead_memWrite_freq v h,
      fun _ hj => Table.read_write_of_ne _ _ hj⟩
  case text =>
    exact ⟨_, memWrite_text v h, Table.write_epoch _ _ _, memRead_memWrite_text v hP h,
      fun _ hj => Table.read_write_of_ne _ _ hj⟩
  case art =>
    exact ⟨_, memWrite_art v h, Table.write_epoch _ _ _, memRead_memWrite_art v h,
      fun _ hj => Table.read_write_of_ne _ _ hj⟩

/-- Settles O50, by the kind of target that is not writable. -/
theorem ignoredAccesses : Obligations.IgnoredAccesses := by
  intro s a v
  refine ⟨busAnswer_unmapped, fun hidle htarget => ?_⟩
  rw [hostWrite_of_idle v hidle]
  obtain h | ⟨n, w, h⟩ | ⟨i, k, h⟩ | ⟨i, h⟩ | ⟨r, h, hcmd, htext, hart⟩ := htarget
  · exact memWrite_unmapped v h
  · exact memWrite_node v h
  · exact memWrite_code v h
  · exact memWrite_dtext v h
  · exact memWrite_readOnly v h hcmd htext hart

/-- Settles O52: the write is dropped, and the registers R73 names are readable while BUSY = 1. -/
theorem accessWhileBusy : Obligations.AccessWhileBusy := by
  intro s a v w hbusy
  refine ⟨hostWrite_of_busy v hbusy, busAnswer_unmapped, fun r h hr => ?_⟩
  have hreadable : readableWhileBusy (target s.params a) = true := by
    rw [h]
    obtain rfl | rfl | rfl | rfl | rfl | rfl := hr <;> rfl
  rw [busAnswer_of_readable hreadable, memRead_reg h]

end Sys2Proof.Machine
end

section
/-! PROOFS. Command decoding (spec/30_encoding.md): the two fields of a word as numbers, one rule per branch of the
decoder, and the obligations about the opcode map and the ILLEGAL words. -/

namespace Sys2Proof

/-! ### The fields of a word (R90) -/

theorem toNat_rsvdField (v : Word) : (rsvdField v).toNat = v.toNat % 2 ^ 24 := by
  simp [rsvdField]

theorem toNat_opField (v : Word) : (opField v).toNat = v.toNat / 2 ^ 24 := by
  have hlt : v.toNat / 2 ^ 24 < 2 ^ 8 := by omega
  rw [opField, BitVec.extractLsb'_toNat, Nat.shiftRight_eq_div_pow, Nat.mod_eq_of_lt hlt]

/-- A command's word has the command's opcode in OP and 0 in RSVD. -/
theorem formatStatement (i : Instr) : Laws.Format.Statement i := by
  cases i
  case nop => exact Laws.Format.nop
  case clear => exact Laws.Format.clear
  case clrerr => exact Laws.Format.clrerr
  case clrfreq => exact Laws.Format.clrfreq
  case buildTree => exact Laws.Format.buildTree
  case genTable => exact Laws.Format.genTable
  case encode => exact Laws.Format.encode
  case decode => exact Laws.Format.decode

/-! ### The decoder, by branch (R93, R94) -/

theorem decode_of_rsvdField_ne_zero {v : Word} (h : rsvdField v ≠ 0) : decode v = .error .rsvdNonZero :=
  if_pos h

theorem decode_of_rsvdField_eq_zero {v : Word} (h : rsvdField v = 0) : decode v = decodeOp (opField v).toNat :=
  if_neg (not_not_intro h)

theorem decodeOp_opOf (i : Instr) : decodeOp (opOf i).toNat = .ok i := by
  cases i <;> rfl

theorem decodeOp_of_notMem {op : Nat} (h : op ∉ [0x00, 0x01, 0x02, 0x03, 0x10, 0x11, 0x20, 0x30]) :
    decodeOp op = .error .opReserved := by
  unfold decodeOp
  split
  case h_9 => rfl
  all_goals exact absurd (by decide) h

/-- Every command is what its own word decodes to. -/
theorem decode_encode (i : Instr) : decode (encode i) = .ok i := by
  obtain ⟨hop, hrsvd, -⟩ := formatStatement i
  rw [decode_of_rsvdField_eq_zero hrsvd, hop, decodeOp_opOf]

theorem exists_decode_eq_error_of_opField_notMem {v : Word}
    (h : (opField v).toNat ∉ [0x00, 0x01, 0x02, 0x03, 0x10, 0x11, 0x20, 0x30]) : ∃ e, decode v = .error e := by
  by_cases hrsvd : rsvdField v = 0
  · exact ⟨.opReserved, by rw [decode_of_rsvdField_eq_zero hrsvd, decodeOp_of_notMem h]⟩
  · exact ⟨.rsvdNonZero, decode_of_rsvdField_ne_zero hrsvd⟩

/-! ### The obligations -/

/-- Settles O1: each of the eight words is the word `encode` gives its command. -/
theorem commandWordsDecode : Obligations.CommandWordsDecode :=
  ⟨decode_encode .nop, decode_encode .clear, decode_encode .clrerr, decode_encode .clrfreq,
    decode_encode .buildTree, decode_encode .genTable, decode_encode .encode, decode_encode .decode⟩

/-- Settles O3: each clause is a condition on one field, and the decoder refuses a word for either field. -/
theorem otherWordsAreIllegal : Obligations.OtherWordsAreIllegal := by
  intro v
  constructor
  · intro h
    have hrsvd : rsvdField v ≠ 0 := by
      intro h0
      rw [← toNat_rsvdField, h0] at h
      exact h rfl
    exact ⟨.rsvdNonZero, decode_of_rsvdField_ne_zero hrsvd⟩
  · intro h
    rw [← toNat_opField] at h
    exact exists_decode_eq_error_of_opField_notMem h

end Sys2Proof
end

section
/-! PROOFS. The control commands NOP, CLEAR and CLRERR (spec/40_control.md): what completion writes, the dispatch of
each command, and the obligations about their exact next state. -/

namespace Sys2Proof.Machine

/-! ### Completion and dispatch (R110, R112) -/

/-- Success writes RESULT, ERR_INFO and CMD_LATCH only: the sticky STATUS.ERR takes in a result code that is 0. -/
theorem State.complete_eq (s : State) : s.complete = { s with result := 0, errInfo := 0, cmdLatch := none } := by
  have herr : (s.err || (0 : BitVec 8) != 0) = s.err := Bool.or_false s.err
  rw [State.complete, State.finish, herr]

theorem exec_nop (s : State) : exec .nop s = .next s.complete := rfl

theorem exec_clear (s : State) : exec .clear s = .next s.clearRegisters.complete := rfl

theorem exec_clrerr (s : State) : exec .clrerr s = .next (State.complete { s with err := false, overrun := false }) :=
  rfl

/-! ### The obligations -/

/-- Settles O7: NOP is completion alone. -/
theorem nopOnlyCompletes : Obligations.NopOnlyCompletes := by
  intro s
  rw [exec_nop, State.complete_eq]

/-- Settles O8: completion after the register writes of R115, none of which is a table. -/
theorem clearResetsRegisters : Obligations.ClearResetsRegisters := by
  intro s
  rw [exec_clear, State.complete_eq, State.clearRegisters]

/-- Settles O9: completion keeps the two sticky bits that CLRERR has cleared. -/
theorem clrerrClearsStickyBits : Obligations.ClrerrClearsStickyBits := by
  intro s
  rw [exec_clrerr, State.complete_eq]

end Sys2Proof.Machine
end

section
/-! PROOFS. The tree builder (spec/41_tree_builder.md): the leaves BUILD_TREE finds, the node list it builds from them,
what the next state holds, and the obligations about what BUILD_TREE writes and reads. -/

namespace Sys2Proof.Machine

/-! ### The leaves (R130) -/

/-- The leaf FREQ entry `i` gives: none when the entry is 0. -/
def State.leafOf (s : State) (i : Nat) : Option Node :=
  if s.freqAt i = 0 then none else some (.leaf (s.freqAt i) (BitVec.ofNat 10 i))

theorem State.leafNodes_eq_filterMap (s : State) : s.leafNodes = (List.range s.params.nsym).filterMap s.leafOf := rfl

theorem State.leafOf_of_freqAt_eq_zero {s : State} {i : Nat} (h : s.freqAt i = 0) : s.leafOf i = none := if_pos h

theorem State.leafOf_of_freqAt_ne_zero {s : State} {i : Nat} (h : s.freqAt i ≠ 0) :
    s.leafOf i = some (.leaf (s.freqAt i) (BitVec.ofNat 10 i)) := if_neg h

theorem State.length_filterMap_leafOf (s : State) (is : List Nat) :
    (is.filterMap s.leafOf).length = (is.filter fun i => s.freqAt i != 0).length := by
  induction is with
  | nil => rfl
  | cons i is ih =>
    by_cases h : s.freqAt i = 0
    · simp [State.leafOf_of_freqAt_eq_zero h, h, ih]
    · have hkeep : (i :: is).filter (fun j => s.freqAt j != 0) = i :: is.filter fun j => s.freqAt j != 0 :=
        List.filter_cons_of_pos (bne_iff_ne.2 h)
      rw [List.filterMap_cons_some (State.leafOf_of_freqAt_ne_zero h), hkeep, List.length_cons, List.length_cons, ih]

theorem State.length_leafNodes (s : State) : s.leafNodes.length = s.freqCount :=
  s.length_filterMap_leafOf (List.range s.params.nsym)

theorem State.length_leafNodes_le (s : State) : s.leafNodes.length ≤ s.params.nsym := by
  simpa [State.leafNodes_eq_filterMap] using List.length_filterMap_le s.leafOf (List.range s.params.nsym)

/-- Symbol `i`'s leaf stands behind the leaves of the lesser symbols. -/
theorem State.leafNodes_getElem? {s : State} {i : Nat} (hi : i < s.params.nsym) (h : s.freqAt i ≠ 0) :
    s.leafNodes[((List.range i).filter fun j => s.freqAt j != 0).length]?
      = some (.leaf (s.freqAt i) (BitVec.ofNat 10 i)) := by
  obtain ⟨k, hk⟩ : ∃ k, s.params.nsym = i + 1 + k := ⟨s.params.nsym - (i + 1), by omega⟩
  rw [State.leafNodes_eq_filterMap, hk, List.range_add, List.range_succ, List.append_assoc, List.filterMap_append,
    ← State.length_filterMap_leafOf, List.getElem?_append_right (Nat.le_refl _), Nat.sub_self]
  simp [State.leafOf_of_freqAt_ne_zero h]

/-- The leaves are a function of the FREQ contents (R138). -/
theorem State.leafNodes_congr {s s' : State} (hsym : s.params.symW = s'.params.symW)
    (hfreq : ∀ i < s.params.nsym, s.freqAt i = s'.freqAt i) : s.leafNodes = s'.leafNodes := by
  have hnsym : s'.params.nsym = s.params.nsym := by rw [Params.nsym, Params.nsym, hsym]
  rw [State.leafNodes_eq_filterMap, State.leafNodes_eq_filterMap, hnsym]
  refine List.filterMap_congr fun i hi => ?_
  rw [State.leafOf, State.leafOf, hfreq i (List.mem_range.1 hi)]

/-! ### The node list (R132, R133) -/

@[simp] theorem length_leafKeys (leaves : List Node) : (leafKeys leaves).length = leaves.length := by
  simp [leafKeys]

/-- The leaves come first, then one internal node fewer than there are leaves. -/
theorem buildNodes_append (leaves : List Node) :
    ∃ extra, buildNodes leaves = leaves ++ extra ∧ extra.length = leaves.length - 1 := by
  have happ := mergeLoop_append leaves.length (leafKeys leaves) leaves (by rw [length_leafKeys]; omega)
  rwa [length_leafKeys] at happ

theorem length_buildNodes (leaves : List Node) : (buildNodes leaves).length = 2 * leaves.length - 1 := by
  obtain ⟨extra, heq, hlen⟩ := buildNodes_append leaves
  rw [heq, List.length_append, hlen]
  omega

theorem buildNodes_getElem?_of_lt {leaves : List Node} {n : Nat} (h : n < leaves.length) :
    (buildNodes leaves)[n]? = leaves[n]? := by
  obtain ⟨extra, heq, -⟩ := buildNodes_append leaves
  rw [heq, List.getElem?_append_left h]

/-! ### The next state (R133) -/

theorem exec_buildTree (s : State) :
    exec .buildTree s = .next (State.complete (State.setTreeRegisters s.leafNodes.length
      { s with mem := { s.mem with node := s.mem.node.writeList 0 (buildNodes s.leafNodes) } })) := rfl

section AfterBuildTree

variable {s t : State} (h : exec .buildTree s = .next t)
include h

theorem leaves_of_buildTree : t.leaves = BitVec.ofNat 11 s.leafNodes.length := by
  cases h; rfl

theorem nodeCount_of_buildTree :
    t.nodeCount = if s.leafNodes.length = 0 then 0 else BitVec.ofNat 12 (2 * s.leafNodes.length - 1) := by
  cases h; rfl

theorem root_of_buildTree :
    t.root = if s.leafNodes.length = 0 then 0 else BitVec.ofNat 11 (2 * s.leafNodes.length - 2) := by
  cases h; rfl

theorem treeState_of_buildTree : t.treeState = if s.leafNodes.length = 0 then .empty else .built := by
  cases h; rfl

theorem node_of_buildTree : t.mem.node = s.mem.node.writeList 0 (buildNodes s.leafNodes) := by
  cases h; rfl

theorem nodeCount_le_of_buildTree : t.nodeCount.toNat ≤ (buildNodes s.leafNodes).length := by
  rw [nodeCount_of_buildTree h, length_buildNodes]
  split
  · exact Nat.zero_le _
  · rw [BitVec.toNat_ofNat]
    exact Nat.mod_le _ _

theorem nodeAt_of_buildTree {n : Nat} (hn : n < (buildNodes s.leafNodes).length) :
    t.nodeAt n = (buildNodes s.leafNodes)[n] := by
  have hread : t.mem.node.read n = some (buildNodes s.leafNodes)[n] := by
    rw [node_of_buildTree h, Table.read_writeList, if_pos ⟨Nat.zero_le n, by omega⟩]
    exact List.getElem?_eq_getElem hn
  simp [State.nodeAt, hread]

end AfterBuildTree

/-! ### The obligations -/

/-- Settles O11: the node list begins with the leaves and ends at entry `2L - 2`. -/
theorem buildTreeWritesLeavesAndRegisters : Obligations.BuildTreeWritesLeavesAndRegisters := by
  intro s
  refine ⟨s.mem.node.writeList 0 (buildNodes s.leafNodes), ?next, Table.writeList_epoch _ _ _, ?leaf, ?rest⟩
  case next => rw [exec_buildTree, State.complete_eq, State.length_leafNodes, State.setTreeRegisters]
  case leaf =>
    intro i hi hfreq
    have hleaf := State.leafNodes_getElem? hi hfreq
    have hlt := (List.getElem?_eq_some_iff.1 hleaf).1
    rw [Table.read_writeList, if_pos ⟨Nat.zero_le _, by rw [length_buildNodes]; omega⟩, Nat.sub_zero,
      buildNodes_getElem?_of_lt hlt, hleaf]
  case rest =>
    intro n hn
    rw [Table.read_writeList, if_neg (by rw [length_buildNodes, State.length_leafNodes]; omega)]

/-- Settles O15: equal FREQ contents give equal leaves, and everything BUILD_TREE writes is a function of these. -/
theorem buildTreeDependsOnFreqOnly : Obligations.BuildTreeDependsOnFreqOnly := by
  intro s1 s2 t1 t2 hsym hfreq h1 h2
  have hleaves : s1.leafNodes = s2.leafNodes := State.leafNodes_congr hsym hfreq
  refine ⟨?leaves, ?nodeCount, ?root, ?treeState, fun n hn => ?node⟩
  case leaves => rw [leaves_of_buildTree h1, leaves_of_buildTree h2, hleaves]
  case nodeCount => rw [nodeCount_of_buildTree h1, nodeCount_of_buildTree h2, hleaves]
  case root => rw [root_of_buildTree h1, root_of_buildTree h2, hleaves]
  case treeState => rw [treeState_of_buildTree h1, treeState_of_buildTree h2, hleaves]
  case node =>
    have hlt := Nat.lt_of_lt_of_le hn (nodeCount_le_of_buildTree h1)
    rw [nodeAt_of_buildTree h1 hlt, nodeAt_of_buildTree h2 (hleaves ▸ hlt)]
    simp only [hleaves]

end Sys2Proof.Machine
end

section
/-! PROOFS. The merge loop of BUILD_TREE (spec/41_tree_builder.md R131, R132): the sum of the FREQ entries fits a
weight, the queue always holds the keys of exactly the entries that are queued, and every merge takes the two least. -/

namespace Sys2Proof.Machine

/-! ### Bounds on legal parameters (R4, R5) -/

theorem Params.nsym_le_of_legal {P : Params} (h : P.legal = true) : P.nsym ≤ 1024 :=
  Nat.pow_le_pow_right Nat.two_pos (Params.symW_le_of_legal h)

theorem Params.nsym_mul_le_of_legal {P : Params} (h : P.legal = true) : P.nsym * 2 ^ P.freqW ≤ 2 ^ 32 := by
  have hw : P.symW + P.freqW ≤ 32 := by
    simp only [Params.legal, Params.freqWOk, Bool.and_eq_true, decide_eq_true_eq] at h
    omega
  rw [Params.nsym, ← Nat.pow_add]
  exact Nat.pow_le_pow_right Nat.two_pos hw

/-! ### The FREQ entries and their sum (R134) -/

theorem mem_of_lookupCell {α : Type} {i : Nat} {v : α} {cells : List (Nat × α)} (h : lookupCell i cells = some v) :
    (i, v) ∈ cells := by
  induction cells with
  | nil => cases h
  | cons c rest ih =>
    obtain ⟨j, w⟩ := c
    simp only [lookupCell] at h
    split at h
    · cases h; subst_vars; exact List.mem_cons_self
    · exact List.mem_cons_of_mem _ (ih h)

/-- A FREQ entry has FREQ_W bits, whether it has been written or not. -/
theorem State.freqAt_lt {s : State} (hfit : s.EntriesFit) (i : Nat) : (s.freqAt i).toNat < 2 ^ s.params.freqW := by
  obtain ⟨hfreq, -⟩ := hfit
  unfold State.freqAt
  split
  next v hv => exact (hfreq _ (mem_of_lookupCell hv)).2
  next => rw [truncTo_toNat]; exact Nat.mod_lt _ (Nat.two_pow_pos _)

/-- The sum of all FREQ entries fits a weight (R134). -/
theorem State.freqSum_lt {s : State} (hP : s.params.legal = true) (hfit : s.EntriesFit) : s.freqSum < 2 ^ 32 := by
  have hle : s.freqSum ≤ s.params.nsym * (2 ^ s.params.freqW - 1) := by
    have := List.sum_le_card_nsmul ((List.range s.params.nsym).map fun i => (s.freqAt i).toNat)
      (2 ^ s.params.freqW - 1) (by
        intro x hx
        obtain ⟨i, -, rfl⟩ := List.mem_map.1 hx
        exact Nat.le_sub_one_of_lt (State.freqAt_lt hfit i))
    rwa [List.length_map, List.length_range, smul_eq_mul] at this
  calc s.freqSum ≤ s.params.nsym * (2 ^ s.params.freqW - 1) := hle
    _ < s.params.nsym * 2 ^ s.params.freqW :=
        Nat.mul_lt_mul_of_pos_left (Nat.sub_one_lt (Nat.two_pow_pos _).ne') (Nat.two_pow_pos _)
    _ ≤ 2 ^ 32 := Params.nsym_mul_le_of_legal hP

/-! ### Nodes and their weights -/

@[simp] theorem nodeWeight_leaf (w : Word) (x : Symbol) : nodeWeight (.leaf w x) = w := rfl

@[simp] theorem nodeWeight_internal (w : Word) (l r : NodeIdx) : nodeWeight (.internal w l r) = w := rfl

@[simp] theorem nodeLeft_internal (w : Word) (l r : NodeIdx) : nodeLeft (.internal w l r) = l := rfl

@[simp] theorem nodeRight_internal (w : Word) (l r : NodeIdx) : nodeRight (.internal w l r) = r := rfl

theorem State.sum_weight_filterMap_leafOf (s : State) (is : List Nat) :
    ((is.filterMap s.leafOf).map fun n => (nodeWeight n).toNat).sum = (is.map fun i => (s.freqAt i).toNat).sum := by
  induction is with
  | nil => rfl
  | cons i is ih =>
    by_cases h : s.freqAt i = 0
    · simp [State.leafOf_of_freqAt_eq_zero h, h, ih]
    · simp [State.leafOf_of_freqAt_ne_zero h, ih]

theorem State.sum_weight_leafNodes (s : State) :
    (s.leafNodes.map fun n => (nodeWeight n).toNat).sum = s.freqSum :=
  s.sum_weight_filterMap_leafOf (List.range s.params.nsym)

/-! ### Extraction from a queue without repeated keys (R131) -/

section Extract

variable {pq rest : List Key} {k : Key} (h : extractMin pq = some (k, rest))
include h

theorem sum_weight_extractMin :
    k.weight.toNat + (rest.map fun x => x.weight.toNat).sum = (pq.map fun x => x.weight.toNat).sum := by
  obtain ⟨hmem, rfl, -⟩ := extractMin_some h
  exact List.sum_map_erase (fun x : Key => x.weight.toNat) hmem

theorem nodup_extractMin (hnodup : pq.Nodup) : rest.Nodup := by
  obtain ⟨-, rfl, -⟩ := extractMin_some h
  exact hnodup.erase k

theorem mem_extractMin (hnodup : pq.Nodup) {x : Key} : x ∈ rest ↔ x ≠ k ∧ x ∈ pq := by
  obtain ⟨-, rfl, -⟩ := extractMin_some h
  exact hnodup.mem_erase_iff

end Extract

/-! ### The queue of the merge loop -/

/-- `key(m)` of the entry `m` (R131). -/
def State.keyAt (s : State) (m : Nat) : Key := { weight := nodeWeight (s.nodeAt m), idx := m }

@[simp] theorem State.keyAt_inj {s : State} {m n : Nat} : s.keyAt m = s.keyAt n ↔ m = n :=
  ⟨congrArg Key.idx, congrArg s.keyAt⟩

theorem State.keyAt_weight_toNat (s : State) (m : Nat) : (s.keyAt m).weight.toNat = s.weightAt m := rfl

/-- Two different entries have different keys, so the order of their keys is strict. -/
theorem State.keyBefore_of_atMost {s : State} {a b : Nat} (h : (s.keyAt a).atMost (s.keyAt b)) (hne : a ≠ b) :
    s.keyBefore a b :=
  h.imp_right fun ⟨hweight, hle⟩ => ⟨hweight, Nat.lt_of_le_of_ne hle hne⟩

theorem State.isChildOf_eq_false {s : State} {m n : Nat} :
    s.isChildOf m n = false ↔ m ≠ s.leftAt n ∧ m ≠ s.rightAt n := by
  rw [State.isChildOf, Bool.or_eq_false_iff, beq_eq_false_iff_ne, beq_eq_false_iff_ne, ne_comm,
    @ne_comm _ (s.rightAt n)]

/-- Making entry `N` takes its two children out of the queue and puts `N` in (R132). -/
theorem State.queuedAt_succ {s : State} {N m : Nat} (hN : s.leafCount ≤ N)
    (hchild : ∀ k ≤ N, s.leafCount ≤ k → s.leftAt k < k ∧ s.rightAt k < k) :
    s.queuedAt (N + 1) m ↔ m = N ∨ (s.queuedAt N m ∧ m ≠ s.leftAt N ∧ m ≠ s.rightAt N) := by
  constructor
  · rintro ⟨hlt, hfree⟩
    obtain rfl | hne := eq_or_ne m N
    · exact .inl rfl
    · exact .inr ⟨⟨by omega, fun k hk => hfree k (Nat.lt_succ_of_lt hk)⟩,
        State.isChildOf_eq_false.1 (hfree N (Nat.lt_succ_self N) hN)⟩
  · rintro (rfl | ⟨⟨hlt, hfree⟩, hleft, hright⟩)
    · refine ⟨Nat.lt_succ_self m, fun k hk hLk => State.isChildOf_eq_false.2 ?_⟩
      obtain ⟨hl, hr⟩ := hchild k (Nat.le_of_lt_succ hk) hLk
      omega
    · refine ⟨Nat.lt_succ_of_lt hlt, fun k hk hLk => ?_⟩
      obtain hk | rfl := Nat.lt_succ_iff_lt_or_eq.1 hk
      · exact hfree k hk hLk
      · exact State.isChildOf_eq_false.2 ⟨hleft, hright⟩

/-- Entry `n` joins the two entries of least key in the queue at its merge, as R131 and R132 say. -/
def State.MergesTwoLeast (s : State) (n : Nat) : Prop :=
  s.weightAt n = s.weightAt (s.leftAt n) + s.weightAt (s.rightAt n) ∧
  s.queuedAt n (s.leftAt n) ∧ s.queuedAt n (s.rightAt n) ∧
  s.keyBefore (s.leftAt n) (s.rightAt n) ∧
  ∀ m, s.queuedAt n m → m ≠ s.leftAt n → m ≠ s.rightAt n → s.keyBefore (s.rightAt n) m

theorem State.MergesTwoLeast.children_lt {s : State} {n : Nat} (h : s.MergesTwoLeast n) :
    s.leftAt n < n ∧ s.rightAt n < n := by
  obtain ⟨-, ⟨hleft, -⟩, ⟨hright, -⟩, -⟩ := h
  exact ⟨hleft, hright⟩

/-- The merge loop when it has made the first `N` of `s`'s entries: its queue `pq` holds the key of each queued entry
once, the weights in it add up to `W`, each merge has made the queue one shorter, and every merge so far has joined the
two least. -/
structure QueueInv (s : State) (W : Nat) (pq : List Key) (N : Nat) : Prop where
  leafCount_le : s.leafCount ≤ N
  nodup : pq.Nodup
  mem_iff : ∀ k, k ∈ pq ↔ ∃ m, s.queuedAt N m ∧ k = s.keyAt m
  sum_eq : (pq.map fun k => k.weight.toNat).sum = W
  length_add : pq.length + N = 2 * s.leafCount
  merged : ∀ n < N, s.leafCount ≤ n → s.MergesTwoLeast n

theorem QueueInv.keyAt_mem {s : State} {W N m : Nat} {pq : List Key} (inv : QueueInv s W pq N) :
    s.keyAt m ∈ pq ↔ s.queuedAt N m := by
  simp [inv.mem_iff]

/-! ### One merge (R132) -/

section Merge

variable {s : State} {W N : Nat} {pq pq1 pq2 : List Key} {a b : Key}
  (inv : QueueInv s W pq N) (ha : extractMin pq = some (a, pq1)) (hb : extractMin pq1 = some (b, pq2))
include inv ha hb

/-- The two extracted keys are the keys of the two least queued entries, in this order. -/
theorem QueueInv.extract_two : ∃ l r, a = s.keyAt l ∧ b = s.keyAt r ∧ s.queuedAt N l ∧ s.queuedAt N r ∧
    s.keyBefore l r ∧ ∀ m, s.queuedAt N m → m ≠ l → m ≠ r → s.keyBefore r m := by
  obtain ⟨hamem, -, haleast⟩ := extractMin_some ha
  obtain ⟨hbmem, -, hbleast⟩ := extractMin_some hb
  obtain ⟨hba, hbpq⟩ := (mem_extractMin ha inv.nodup).1 hbmem
  obtain ⟨l, hl, rfl⟩ := (inv.mem_iff a).1 hamem
  obtain ⟨r, hr, rfl⟩ := (inv.mem_iff b).1 hbpq
  have hne : r ≠ l := mt (congrArg s.keyAt) hba
  refine ⟨l, r, rfl, rfl, hl, hr, State.keyBefore_of_atMost (haleast _ hbpq) hne.symm, fun m hm hml hmr => ?_⟩
  have hm1 : s.keyAt m ∈ pq1 := (mem_extractMin ha inv.nodup).2 ⟨mt State.keyAt_inj.1 hml, inv.keyAt_mem.2 hm⟩
  exact State.keyBefore_of_atMost (hbleast _ hm1) hmr.symm

theorem QueueInv.mem_rest (k : Key) : k ∈ pq2 ↔ k ≠ b ∧ k ≠ a ∧ k ∈ pq := by
  rw [mem_extractMin hb (nodup_extractMin ha inv.nodup), mem_extractMin ha inv.nodup]

theorem QueueInv.sum_rest :
    a.weight.toNat + (b.weight.toNat + (pq2.map fun k => k.weight.toNat).sum) = W := by
  rw [sum_weight_extractMin hb, sum_weight_extractMin ha, inv.sum_eq]

theorem QueueInv.length_rest : pq2.length + 2 + N = 2 * s.leafCount := by
  have := extractMin_length ha
  have := extractMin_length hb
  have := inv.length_add
  omega

/-- No merge overflows: the two weights are among those that add up to `W`. -/
theorem QueueInv.toNat_add_weight (hW : W < 2 ^ 32) :
    (a.weight + b.weight).toNat = a.weight.toNat + b.weight.toNat := by
  have := inv.sum_rest ha hb
  exact BitVec.toNat_add_of_lt (by omega)

variable (hL : s.leafCount ≤ 1024)
  (hnode : s.nodeAt N = .internal (a.weight + b.weight) (BitVec.ofNat 11 a.idx) (BitVec.ofNat 11 b.idx))
include hL hnode

/-- The children of entry `N` are the extracted ones: an index below `2L - 1` fits the 11 bits of a child field. -/
theorem QueueInv.keyAt_children : a = s.keyAt (s.leftAt N) ∧ b = s.keyAt (s.rightAt N) := by
  have hN := inv.length_rest ha hb
  obtain ⟨l, r, rfl, rfl, ⟨hl, -⟩, ⟨hr, -⟩, -⟩ := inv.extract_two ha hb
  have hleft : s.leftAt N = l := by
    rw [State.leftAt, hnode, nodeLeft_internal, BitVec.toNat_ofNat]
    exact Nat.mod_eq_of_lt (by simp only [State.keyAt]; omega)
  have hright : s.rightAt N = r := by
    rw [State.rightAt, hnode, nodeRight_internal, BitVec.toNat_ofNat]
    exact Nat.mod_eq_of_lt (by simp only [State.keyAt]; omega)
  rw [hleft, hright]
  exact ⟨rfl, rfl⟩

variable (hW : W < 2 ^ 32)
include hW

theorem QueueInv.mergesTwoLeast : s.MergesTwoLeast N := by
  obtain ⟨hleft, hright⟩ := inv.keyAt_children ha hb hL hnode
  obtain ⟨l, r, hal, hbr, hql, hqr, hlr, hleast⟩ := inv.extract_two ha hb
  obtain rfl := State.keyAt_inj.1 (hal.symm.trans hleft)
  obtain rfl := State.keyAt_inj.1 (hbr.symm.trans hright)
  refine ⟨?weight, hql, hqr, hlr, hleast⟩
  calc s.weightAt N = (a.weight + b.weight).toNat := by rw [State.weightAt, hnode, nodeWeight_internal]
    _ = a.weight.toNat + b.weight.toNat := inv.toNat_add_weight ha hb hW
    _ = s.weightAt (s.leftAt N) + s.weightAt (s.rightAt N) := by
        rw [← State.keyAt_weight_toNat, ← State.keyAt_weight_toNat, ← hleft, ← hright]

theorem QueueInv.merge : QueueInv s W ({ weight := a.weight + b.weight, idx := N } :: pq2) (N + 1) := by
  have hmerge := inv.mergesTwoLeast ha hb hL hnode hW
  obtain ⟨hleft, hright⟩ := inv.keyAt_children ha hb hL hnode
  have hnew : ({ weight := a.weight + b.weight, idx := N } : Key) = s.keyAt N := by
    rw [State.keyAt, hnode, nodeWeight_internal]
  have hmerged : ∀ n ≤ N, s.leafCount ≤ n → s.MergesTwoLeast n := by
    intro n hn hLn
    obtain hlt | rfl := Nat.lt_or_eq_of_le hn
    · exact inv.merged n hlt hLn
    · exact hmerge
  have hqueued : ∀ m, s.queuedAt (N + 1) m ↔ m = N ∨ (s.queuedAt N m ∧ m ≠ s.leftAt N ∧ m ≠ s.rightAt N) :=
    fun m => State.queuedAt_succ inv.leafCount_le fun k hk hLk => (hmerged k hk hLk).children_lt
  refine ⟨Nat.le_succ_of_le inv.leafCount_le, ?nodup, ?mem, ?sum, ?length,
    fun n hn => hmerged n (Nat.le_of_lt_succ hn)⟩
  case nodup =>
    refine List.nodup_cons.2 ⟨fun hmem => ?_, nodup_extractMin hb (nodup_extractMin ha inv.nodup)⟩
    obtain ⟨-, -, hpq⟩ := (inv.mem_rest ha hb _).1 hmem
    rw [hnew, inv.keyAt_mem] at hpq
    exact Nat.lt_irrefl N hpq.1
  case mem =>
    intro k
    rw [hnew, List.mem_cons, inv.mem_rest ha hb, inv.mem_iff, hleft, hright]
    constructor
    · rintro (rfl | ⟨hkr, hkl, m, hm, rfl⟩)
      · exact ⟨N, (hqueued N).2 (.inl rfl), rfl⟩
      · exact ⟨m, (hqueued m).2 (.inr ⟨hm, mt State.keyAt_inj.2 hkl, mt State.keyAt_inj.2 hkr⟩), rfl⟩
    · rintro ⟨m, hm, rfl⟩
      obtain rfl | ⟨hm, hml, hmr⟩ := (hqueued m).1 hm
      · exact .inl rfl
      · exact .inr ⟨mt State.keyAt_inj.1 hmr, mt State.keyAt_inj.1 hml, m, hm, rfl⟩
  case sum =>
    have := inv.sum_rest ha hb
    rw [List.map_cons, List.sum_cons, inv.toNat_add_weight ha hb hW]
    omega
  case length =>
    have := inv.length_rest ha hb
    rw [List.length_cons]
    omega

end Merge

/-! ### The whole loop (R133) -/

/-- One pass of the merge loop: it stops, or it merges the two extracted keys. -/
theorem mergeLoop_succ_cases (fuel : Nat) (pq : List Key) (nodes : List Node) :
    mergeLoop (fuel + 1) pq nodes = nodes ∨
    ∃ a b pq1 pq2, extractMin pq = some (a, pq1) ∧ extractMin pq1 = some (b, pq2) ∧
      mergeLoop (fuel + 1) pq nodes = mergeLoop fuel ({ weight := a.weight + b.weight, idx := nodes.length } :: pq2)
        (nodes ++ [.internal (a.weight + b.weight) (BitVec.ofNat 11 a.idx) (BitVec.ofNat 11 b.idx)]) := by
  rw [mergeLoop]
  split
  case h_1 => exact .inl rfl
  case h_2 a pq1 ha =>
    split
    case h_1 => exact .inl rfl
    case h_2 b pq2 hb => exact .inr ⟨a, b, pq1, pq2, ha, hb, rfl⟩

theorem exists_queueInv_mergeLoop {s : State} {W : Nat} (hL : s.leafCount ≤ 1024) (hW : W < 2 ^ 32) {final : List Node}
    (hfinal : ∀ n (hn : n < final.length), s.nodeAt n = final[n]) (fuel : Nat) (pq : List Key) (nodes : List Node)
    (hfuel : pq.length ≤ fuel + 1) (inv : QueueInv s W pq nodes.length) (hloop : mergeLoop fuel pq nodes = final) :
    ∃ pq', QueueInv s W pq' final.length := by
  induction fuel generalizing pq nodes with
  | zero => exact ⟨pq, hloop ▸ inv⟩
  | succ fuel ih =>
    obtain hstop | ⟨a, b, pq1, pq2, ha, hb, hpass⟩ := mergeLoop_succ_cases fuel pq nodes
    · exact ⟨pq, (hstop.symm.trans hloop) ▸ inv⟩
    · have hfuel' : pq2.length + 1 ≤ fuel + 1 := by
        have := extractMin_length ha
        have := extractMin_length hb
        omega
      have hloop' := hpass.symm.trans hloop
      obtain ⟨extra, happ, -⟩ := mergeLoop_append fuel
        ({ weight := a.weight + b.weight, idx := nodes.length } :: pq2)
        (nodes ++ [.internal (a.weight + b.weight) (BitVec.ofNat 11 a.idx) (BitVec.ofNat 11 b.idx)]) hfuel'
      have hnode : s.nodeAt nodes.length =
          .internal (a.weight + b.weight) (BitVec.ofNat 11 a.idx) (BitVec.ofNat 11 b.idx) := by
        have happ' := hloop'.symm.trans happ
        rw [hfinal nodes.length (by simp [happ'])]
        simp [happ']
      have hinv := inv.merge ha hb hL hnode hW
      refine ih _ _ ?fuel ?inv hloop'
      case fuel => exact hfuel'
      case inv => rwa [List.length_append, List.length_singleton]

/-! ### The loop's start (R133) -/

theorem mem_leafKeys {leaves : List Node} {k : Key} :
    k ∈ leafKeys leaves ↔ ∃ (m : Nat) (hm : m < leaves.length),
      k = { weight := nodeWeight leaves[m], idx := m } := by
  simp [leafKeys, List.mem_mapIdx, eq_comm]

theorem map_idx_leafKeys (leaves : List Node) : (leafKeys leaves).map Key.idx = List.range leaves.length :=
  List.ext_getElem (by simp) (by simp [leafKeys])

theorem map_weight_leafKeys (leaves : List Node) :
    (leafKeys leaves).map (fun k => k.weight.toNat) = leaves.map fun n => (nodeWeight n).toNat :=
  List.ext_getElem (by simp) (by simp [leafKeys])

section Start

variable {s t : State} (hP : s.params.legal = true) (h : exec .buildTree s = .next t)
include hP h

theorem leafCount_of_buildTree : t.leafCount = s.leafNodes.length := by
  have := s.length_leafNodes_le
  have := Params.nsym_le_of_legal hP
  rw [State.leafCount, leaves_of_buildTree h, BitVec.toNat_ofNat, Nat.mod_eq_of_lt (by omega)]

/-- Before the first merge the queue holds the leaves, whose weights are the non-zero FREQ entries. -/
theorem queueInv_leafKeys : QueueInv t s.freqSum (leafKeys s.leafNodes) s.leafNodes.length := by
  have hL := leafCount_of_buildTree hP h
  have hqueued : ∀ m, t.queuedAt s.leafNodes.length m ↔ m < s.leafNodes.length :=
    fun m => and_iff_left fun k hk hLk => absurd hk (by omega)
  have hkey : ∀ m (hm : m < s.leafNodes.length), t.keyAt m = { weight := nodeWeight s.leafNodes[m], idx := m } := by
    intro m hm
    have hnode : t.nodeAt m = s.leafNodes[m] := by
      rw [nodeAt_of_buildTree h (by rw [length_buildNodes]; omega), ← Option.some.injEq,
        ← List.getElem?_eq_getElem, ← List.getElem?_eq_getElem, buildNodes_getElem?_of_lt hm]
    rw [State.keyAt, hnode]
  refine ⟨hL.le, ?nodup, fun k => ?mem, ?sum, ?length, fun n hn hLn => absurd hn (by omega)⟩
  case nodup => exact List.Nodup.of_map Key.idx (map_idx_leafKeys _ ▸ List.nodup_range)
  case mem =>
    rw [mem_leafKeys]
    constructor
    · rintro ⟨m, hm, rfl⟩
      exact ⟨m, (hqueued m).2 hm, (hkey m hm).symm⟩
    · rintro ⟨m, hm, rfl⟩
      exact ⟨m, (hqueued m).1 hm, hkey m ((hqueued m).1 hm)⟩
  case sum => rw [map_weight_leafKeys, State.sum_weight_leafNodes]
  case length => rw [length_leafKeys, hL]; omega

end Start

/-- After BUILD_TREE the invariant holds of all its entries, with the sum of the FREQ entries as the queue's weight. -/
theorem exists_queueInv_buildNodes {s t : State} (hP : s.params.legal = true) (hfit : s.EntriesFit)
    (h : exec .buildTree s = .next t) : ∃ pq, QueueInv t s.freqSum pq (buildNodes s.leafNodes).length := by
  have hL : t.leafCount ≤ 1024 := by
    rw [leafCount_of_buildTree hP h]
    exact s.length_leafNodes_le.trans (Params.nsym_le_of_legal hP)
  exact exists_queueInv_mergeLoop hL (State.freqSum_lt hP hfit) (fun n hn => nodeAt_of_buildTree h hn) s.leafNodes.length
    (leafKeys s.leafNodes) s.leafNodes (by rw [length_leafKeys]; omega) (queueInv_leafKeys hP h) rfl

/-! ### The obligation -/

/-- Settles O13, by the merge loop's invariant: the queue holds exactly the keys of the queued entries. -/
theorem buildTreeMergesTwoLeast : Obligations.BuildTreeMergesTwoLeast := by
  intro s t hP hfit h n hn hLn
  obtain ⟨pq, inv⟩ := exists_queueInv_buildNodes hP hfit h
  exact inv.merged n (Nat.lt_of_lt_of_le hn (nodeCount_le_of_buildTree h)) hLn

end Sys2Proof.Machine
end

section
/-! PROOFS. The tree of R46 and the paths in it (spec/42_code_table.md R152): every node but the root is the child of
exactly one node on exactly one side, so a node is reached from the root by at most one path. -/

namespace Sys2Proof.Machine

/-! ### Children and walks (R152, R154) -/

/-- The child of entry `n` on the side of bit `b`: left on 0 and right on 1. -/
def State.childAt (s : State) (n : Nat) (b : Bool) : Nat := if b then s.rightAt n else s.leftAt n

@[simp] theorem State.childAt_false (s : State) (n : Nat) : s.childAt n false = s.leftAt n := rfl

@[simp] theorem State.childAt_true (s : State) (n : Nat) : s.childAt n true = s.rightAt n := rfl

theorem State.isChildOf_iff_exists_childAt {s : State} {m n : Nat} :
    s.isChildOf m n = true ↔ ∃ b, s.childAt n b = m := by
  simp [State.isChildOf]

@[simp] theorem State.walk_nil (s : State) (n : Nat) : s.walk n [] = some n := rfl

theorem State.walk_cons (s : State) (n : Nat) (b : Bool) (p : Bits) :
    s.walk n (b :: p) = if s.isLeafAt n then none else s.walk (s.childAt n b) p := rfl

/-- A walk over one more bit takes one more step, from an internal node. -/
theorem State.walk_concat_eq_some {s : State} {n x : Nat} {p : Bits} {b : Bool} :
    s.walk n (p ++ [b]) = some x ↔ ∃ m, s.walk n p = some m ∧ s.isLeafAt m = false ∧ s.childAt m b = x := by
  induction p generalizing n with
  | nil => simp [State.walk_cons]
  | cons c p ih =>
    rw [List.cons_append, State.walk_cons, State.walk_cons]
    by_cases hleaf : s.isLeafAt n = true
    · simp [hleaf]
    · simp [hleaf, ih]

theorem State.walk_congr {s t : State} (hnode : s.nodeAt = t.nodeAt) (n : Nat) (p : Bits) :
    s.walk n p = t.walk n p := by
  induction p generalizing n with
  | nil => rfl
  | cons b p ih =>
    have hleaf : s.isLeafAt n = t.isLeafAt n := congrArg nodeIsLeaf (congrFun hnode n)
    have hchild : s.childAt n b = t.childAt n b := by
      simp only [State.childAt, State.leftAt, State.rightAt, hnode]
    rw [State.walk_cons, State.walk_cons, hleaf, hchild, ih]

/-! ### The shape of R46 -/

/-- Entry `n` is an internal node of the tree (R46). -/
def State.IsInternal (s : State) (n : Nat) : Prop := s.leafCount ≤ n ∧ n < 2 * s.leafCount - 1

/-- The sides of the internal nodes: the places a child can have. -/
def State.childSlots (s : State) : Finset (Nat × Bool) :=
  Finset.Ico s.leafCount (2 * s.leafCount - 1) ×ˢ Finset.univ

theorem State.mem_childSlots {s : State} {q : Nat × Bool} : q ∈ s.childSlots ↔ s.IsInternal q.1 := by
  simp [State.childSlots, State.IsInternal]

theorem State.card_childSlots (s : State) : s.childSlots.card = 2 * s.leafCount - 2 := by
  simp only [State.childSlots, Finset.card_product, Nat.card_Ico, Finset.card_univ, Fintype.card_bool]
  omega

section Shape

variable {s : State} (h : s.BuiltShape)
include h

theorem State.BuiltShape.one_le_leafCount : 1 ≤ s.leafCount := by
  obtain ⟨hpos, -⟩ := h
  exact hpos

theorem State.BuiltShape.leafCount_le_nsym : s.leafCount ≤ s.params.nsym := by
  obtain ⟨-, hle, -⟩ := h
  exact hle

theorem State.BuiltShape.root_eq : s.root.toNat = 2 * s.leafCount - 2 := by
  obtain ⟨-, -, -, hroot, -⟩ := h
  exact hroot

theorem State.BuiltShape.symbolAt_lt {n : Nat} (hn : n < s.leafCount) : s.symbolAt n < s.params.nsym := by
  obtain ⟨-, -, -, -, hleaf, -⟩ := h
  exact (hleaf n hn).2

theorem State.BuiltShape.isLeafAt_of_isInternal {n : Nat} (hn : s.IsInternal n) : s.isLeafAt n = false := by
  obtain ⟨-, -, -, -, -, -, hinner, -⟩ := h
  exact (hinner n hn.2 hn.1).1

theorem State.BuiltShape.childAt_lt {n : Nat} (hn : s.IsInternal n) (b : Bool) : s.childAt n b < n := by
  obtain ⟨-, -, -, -, -, -, hinner, -⟩ := h
  obtain ⟨-, hleft, hright, -⟩ := hinner n hn.2 hn.1
  cases b
  · exact hleft
  · exact hright

theorem State.BuiltShape.childAt_lt_root {n : Nat} (hn : s.IsInternal n) (b : Bool) :
    s.childAt n b < s.root.toNat := by
  have hlt := h.childAt_lt hn b
  have hn2 := hn.2
  rw [h.root_eq]
  omega

theorem State.BuiltShape.isLeafAt_iff {n : Nat} (hn : n < 2 * s.leafCount - 1) :
    s.isLeafAt n = true ↔ n < s.leafCount := by
  constructor
  · intro hleaf
    by_contra hge
    rw [h.isLeafAt_of_isInternal ⟨by omega, hn⟩] at hleaf
    cases hleaf
  · obtain ⟨-, -, -, -, hleaf, -⟩ := h
    exact fun hlt => (hleaf n hlt).1

theorem State.BuiltShape.isInternal_of_lt {n : Nat} (hn : n < 2 * s.leafCount - 1) (hleaf : s.isLeafAt n = false) :
    s.IsInternal n :=
  ⟨Nat.le_of_not_lt (mt (h.isLeafAt_iff hn).2 (Bool.eq_false_iff.1 hleaf)), hn⟩

/-- The leaves' symbols rise, so no two leaves share one. -/
theorem State.BuiltShape.symbolAt_inj {x y : Nat} (hx : x < s.leafCount) (hy : y < s.leafCount)
    (heq : s.symbolAt x = s.symbolAt y) : x = y := by
  obtain ⟨-, -, -, -, -, hrise, -⟩ := h
  obtain hlt | hxy | hlt := Nat.lt_trichotomy x y
  · exact absurd heq (hrise y hy x hlt).ne
  · exact hxy
  · exact absurd heq (hrise x hx y hlt).ne'

theorem State.BuiltShape.exists_parent {m : Nat} (hm : m < 2 * s.leafCount - 2) :
    ∃ n b, s.IsInternal n ∧ s.childAt n b = m := by
  obtain ⟨-, -, -, -, -, -, -, hparent⟩ := h
  obtain ⟨n, hn⟩ := List.exists_mem_of_length_pos (Nat.lt_of_lt_of_eq Nat.one_pos (hparent m hm).symm)
  simp only [List.mem_filter, List.mem_range, Bool.and_eq_true, decide_eq_true_eq] at hn
  obtain ⟨hlt, hge, hchild⟩ := hn
  obtain ⟨b, hb⟩ := State.isChildOf_iff_exists_childAt.1 hchild
  exact ⟨n, b, ⟨hge, hlt⟩, hb⟩

/-- By counting: the `L - 1` internal nodes have `2L - 2` sides, and each of the `2L - 2` nodes below the root is on one
of them, so no node is on two. -/
theorem State.BuiltShape.childAt_inj {m n : Nat} {b c : Bool} (hm : s.IsInternal m) (hn : s.IsInternal n)
    (heq : s.childAt m b = s.childAt n c) : m = n ∧ b = c := by
  have hmaps : Set.MapsTo s.childAt.uncurry s.childSlots (Finset.range (2 * s.leafCount - 2)) := by
    intro q hq
    have hlt := h.childAt_lt_root (State.mem_childSlots.1 hq) q.2
    rw [h.root_eq] at hlt
    exact Finset.mem_coe.2 (Finset.mem_range.2 hlt)
  have hsurj : Set.SurjOn s.childAt.uncurry s.childSlots (Finset.range (2 * s.leafCount - 2)) := by
    intro k hk
    obtain ⟨n, b, hn, rfl⟩ := h.exists_parent (Finset.mem_range.1 hk)
    exact ⟨(n, b), State.mem_childSlots.2 hn, rfl⟩
  have hinj := Finset.injOn_of_surjOn_of_card_le _ hmaps hsurj
    (by rw [State.card_childSlots, Finset.card_range])
  exact Prod.mk.inj (hinj (x₁ := (m, b)) (x₂ := (n, c)) (State.mem_childSlots.2 hm) (State.mem_childSlots.2 hn) heq)

/-- A walk from the root stays in the tree. -/
theorem State.BuiltShape.lt_of_walk {p : Bits} {x : Nat} (hwalk : s.walk s.root.toNat p = some x) :
    x < 2 * s.leafCount - 1 := by
  induction p using List.reverseRecOn generalizing x with
  | nil =>
    obtain rfl := Option.some.inj hwalk
    have := h.root_eq
    have := h.one_le_leafCount
    omega
  | append_singleton p b ih =>
    obtain ⟨m, hm, hleaf, rfl⟩ := State.walk_concat_eq_some.1 hwalk
    have hlt := ih hm
    exact (h.childAt_lt (h.isInternal_of_lt hlt hleaf) b).trans hlt

theorem State.BuiltShape.isInternal_of_walk {p : Bits} {m : Nat} (hwalk : s.walk s.root.toNat p = some m)
    (hleaf : s.isLeafAt m = false) : s.IsInternal m :=
  h.isInternal_of_lt (h.lt_of_walk hwalk) hleaf

/-- At most one path leads from the root to a node: its last step is determined by the node (R152). -/
theorem State.BuiltShape.walk_inj {p q : Bits} {x : Nat} (hp : s.walk s.root.toNat p = some x)
    (hq : s.walk s.root.toNat q = some x) : p = q := by
  induction p using List.reverseRecOn generalizing q x with
  | nil =>
    cases q using List.reverseRecOn with
    | nil => rfl
    | append_singleton q c =>
      obtain ⟨m, hm, hleaf, rfl⟩ := State.walk_concat_eq_some.1 hq
      exact absurd (Option.some.inj hp).symm (h.childAt_lt_root (h.isInternal_of_walk hm hleaf) c).ne
  | append_singleton p b ih =>
    obtain ⟨m, hm, hmleaf, rfl⟩ := State.walk_concat_eq_some.1 hp
    have hmi := h.isInternal_of_walk hm hmleaf
    cases q using List.reverseRecOn with
    | nil => exact absurd (Option.some.inj hq).symm (h.childAt_lt_root hmi b).ne
    | append_singleton q c =>
      obtain ⟨n, hn, hnleaf, heq⟩ := State.walk_concat_eq_some.1 hq
      obtain ⟨rfl, rfl⟩ := h.childAt_inj (h.isInternal_of_walk hn hnleaf) hmi heq
      rw [ih hm hn]

/-- With two leaves or more, no leaf is the root, so the path to it is not empty. -/
theorem State.BuiltShape.ne_nil_of_walk {p : Bits} {x : Nat} (hL : 2 ≤ s.leafCount) (hx : x < s.leafCount)
    (hwalk : s.walk s.root.toNat p = some x) : p ≠ [] := by
  rintro rfl
  have := Option.some.inj hwalk
  have := h.root_eq
  omega

end Shape

end Sys2Proof.Machine
end

section
/-! PROOFS. The code table generator (spec/42_code_table.md R150 to R153): what GEN_TABLE leaves, the invariant of its
stack walk, and the obligation that each leaf's symbol gets the leaf's path as its code. -/

namespace Sys2Proof.Machine

/-! ### GEN_TABLE (R150) -/

theorem exists_exec_genTable (s : State) : ∃ t, exec .genTable s = .next t := ⟨_, rfl⟩

/-- Everything GEN_TABLE can do (R150): it fails without a tree, and with one it writes CODE and TABLE_STATE. -/
theorem exec_genTable_cases {s t : State} (h : exec .genTable s = .next t) :
    (s.treeState = .none ∧ t = s.raise { code := .noTree, info := 0 }) ∨
    (s.treeState ≠ .none ∧ t = State.complete { s with
      mem := { s.mem with code := s.generatedCode }
      tableState := if s.treeState = .empty then .empty else .ready }) := by
  cases h
  cases htree : s.treeState
  case none => exact .inl ⟨rfl, rfl⟩
  case empty => exact .inr ⟨nofun, rfl⟩
  case built => exact .inr ⟨nofun, rfl⟩

section AfterGenTable

variable {s t : State} (h : exec .genTable s = .next t)
include h

theorem params_of_genTable : t.params = s.params := by
  obtain ⟨-, rfl⟩ | ⟨-, rfl⟩ := exec_genTable_cases h <;> rfl

theorem node_of_genTable : t.mem.node = s.mem.node := by
  obtain ⟨-, rfl⟩ | ⟨-, rfl⟩ := exec_genTable_cases h <;> rfl

theorem leaves_of_genTable : t.leaves = s.leaves := by
  obtain ⟨-, rfl⟩ | ⟨-, rfl⟩ := exec_genTable_cases h <;> rfl

theorem root_of_genTable : t.root = s.root := by
  obtain ⟨-, rfl⟩ | ⟨-, rfl⟩ := exec_genTable_cases h <;> rfl

theorem treeState_of_genTable : t.treeState = s.treeState := by
  obtain ⟨-, rfl⟩ | ⟨-, rfl⟩ := exec_genTable_cases h <;> rfl

theorem code_of_genTable_of_no_tree (htree : s.treeState = .none) : t.mem.code = s.mem.code := by
  obtain ⟨-, rfl⟩ | ⟨hne, -⟩ := exec_genTable_cases h
  · rfl
  · exact absurd htree hne

theorem nodeAt_of_genTable : t.nodeAt = s.nodeAt := State.nodeAt_congr (node_of_genTable h)

variable (htree : s.treeState ≠ .none)
include htree

theorem eq_complete_of_genTable : t = State.complete { s with
    mem := { s.mem with code := s.generatedCode }
    tableState := if s.treeState = .empty then .empty else .ready } := by
  obtain ⟨hnone, -⟩ | ⟨-, heq⟩ := exec_genTable_cases h
  · exact absurd hnone htree
  · exact heq

theorem result_of_genTable : t.result = 0 := by
  rw [eq_complete_of_genTable h htree, State.complete_eq]

theorem tableState_of_genTable : t.tableState = if s.treeState = .empty then .empty else .ready := by
  rw [eq_complete_of_genTable h htree, State.complete_eq]

theorem code_of_genTable : t.mem.code = s.generatedCode := by
  rw [eq_complete_of_genTable h htree, State.complete_eq]

theorem codeAt_of_genTable {i : Nat} {c : Bits} (hread : s.generatedCode.read i = some c) : t.codeAt i = c := by
  rw [State.codeAt, code_of_genTable h htree, hread]

end AfterGenTable

/-! ### The CODE contents, by the kind of tree (R150, R153) -/

theorem State.leafCount_eq_one_iff {s : State} : s.leafCount = 1 ↔ s.leaves = 1 :=
  BitVec.toNat_inj (y := 1)

theorem State.generatedCode_of_empty {s : State} (h : s.treeState = .empty) :
    s.generatedCode = s.mem.code.fill s.params.nsym [] := by
  rw [State.generatedCode, h]

theorem State.generatedCode_of_one_leaf {s : State} (h : s.treeState = .built) (hL : s.leafCount = 1) :
    s.generatedCode = (s.mem.code.fill s.params.nsym []).write (s.symbolAt 0) [false] := by
  rw [State.generatedCode, h]
  exact if_pos (State.leafCount_eq_one_iff.1 hL)

theorem State.generatedCode_of_leaves {s : State} (h : s.treeState = .built) (hL : s.leafCount ≠ 1) :
    s.generatedCode = genWalk s s.params.nodeMax [(s.root, [])] (s.mem.code.fill s.params.nsym []) := by
  rw [State.generatedCode, h]
  exact if_neg (mt State.leafCount_eq_one_iff.2 hL)

/-! ### One pop of the walk (R150) -/

section Pop

variable {s : State} {n : NodeIdx}

@[simp] theorem genWalk_nil (s : State) (fuel : Nat) (t : Table Bits) : genWalk s fuel [] t = t := by
  cases fuel <;> rfl

theorem genWalk_leaf {w : Word} {sym : Symbol} (hnode : s.nodeAt n.toNat = .leaf w sym) (fuel : Nat) (p : Bits)
    (stack : List (NodeIdx × Bits)) (t : Table Bits) :
    genWalk s (fuel + 1) ((n, p) :: stack) t = genWalk s fuel stack (t.write sym.toNat p) := by
  rw [genWalk, hnode]

theorem genWalk_internal {w : Word} {l r : NodeIdx} (hnode : s.nodeAt n.toNat = .internal w l r) (fuel : Nat) (p : Bits)
    (stack : List (NodeIdx × Bits)) (t : Table Bits) :
    genWalk s (fuel + 1) ((n, p) :: stack) t =
      genWalk s fuel ((l, p ++ [false]) :: (r, p ++ [true]) :: stack) t := by
  rw [genWalk, hnode]

theorem State.isLeafAt_of_leaf {n : Nat} {w : Word} {sym : Symbol} (hnode : s.nodeAt n = .leaf w sym) :
    s.isLeafAt n = true := by
  rw [State.isLeafAt, hnode, nodeIsLeaf]

theorem State.symbolAt_of_leaf {n : Nat} {w : Word} {sym : Symbol} (hnode : s.nodeAt n = .leaf w sym) :
    s.symbolAt n = sym.toNat := by
  rw [State.symbolAt, hnode, nodeSymbol]

theorem State.isLeafAt_of_internal {n : Nat} {w : Word} {l r : NodeIdx} (hnode : s.nodeAt n = .internal w l r) :
    s.isLeafAt n = false := by
  rw [State.isLeafAt, hnode, nodeIsLeaf]

theorem State.leftAt_of_internal {n : Nat} {w : Word} {l r : NodeIdx} (hnode : s.nodeAt n = .internal w l r) :
    s.leftAt n = l.toNat := by
  rw [State.leftAt, hnode, nodeLeft_internal]

theorem State.rightAt_of_internal {n : Nat} {w : Word} {l r : NodeIdx} (hnode : s.nodeAt n = .internal w l r) :
    s.rightAt n = r.toNat := by
  rw [State.rightAt, hnode, nodeRight_internal]

end Pop

/-! ### The invariant of the walk -/

/-- The entries the walk has met: those it has popped, `done`, and those on the stack. -/
def seenNodes (done : List Nat) (stack : List (NodeIdx × Bits)) : List Nat := done ++ stack.map fun q => q.1.toNat

theorem mem_seenNodes_cons {done : List Nat} {q : NodeIdx × Bits} {stack : List (NodeIdx × Bits)} {m : Nat} :
    m ∈ seenNodes done (q :: stack) ↔ m = q.1.toNat ∨ m ∈ seenNodes done stack := by
  simp [seenNodes, or_left_comm]

theorem seenNodes_cons_perm (done : List Nat) (q : NodeIdx × Bits) (stack : List (NodeIdx × Bits)) :
    (seenNodes done (q :: stack)).Perm (q.1.toNat :: seenNodes done stack) :=
  List.perm_middle

/-- The stack walk of R150 when it has popped the entries `done` and written the table `t`: no entry is met twice, each
stack entry carries its path from the root, the met entries are the root and the children of the popped ones, and of
the leaves exactly the popped ones have their code. -/
structure CodeWalkInv (s : State) (done : List Nat) (stack : List (NodeIdx × Bits)) (t : Table Bits) : Prop where
  nodup : (seenNodes done stack).Nodup
  path : ∀ q ∈ stack, s.walk s.root.toNat q.2 = some q.1.toNat
  done_lt : ∀ n ∈ done, n < 2 * s.leafCount - 1
  root_mem : s.root.toNat ∈ seenNodes done stack
  child_mem : ∀ n b, s.IsInternal n → (s.childAt n b ∈ seenNodes done stack ↔ n ∈ done)
  code : ∀ x ∈ done, x < s.leafCount → ∃ p, t.read (s.symbolAt x) = some p ∧ s.walk s.root.toNat p = some x
  noCode : ∀ i < s.params.nsym, (∀ x < s.leafCount, s.symbolAt x ≠ i) → t.read i = some []

section Walk

variable {s : State} (h : s.BuiltShape)
include h

theorem codeWalkInv_start (t : Table Bits) : CodeWalkInv s [] [(s.root, [])] (t.fill s.params.nsym []) := by
  refine ⟨List.nodup_singleton _, ?path, nofun, List.mem_singleton_self _, ?child, nofun, ?noCode⟩
  case path => exact fun q hq => List.mem_singleton.1 hq ▸ rfl
  case child =>
    intro n b hn
    have hne := (h.childAt_lt_root hn b).ne
    simp [seenNodes, hne]
  case noCode => exact fun i hi _ => by rw [Table.read_fill, if_pos hi]

variable {done : List Nat} {stack : List (NodeIdx × Bits)} {t : Table Bits} {n : NodeIdx} {p : Bits}

theorem CodeWalkInv.leaf (inv : CodeWalkInv s done ((n, p) :: stack) t) {w : Word} {sym : Symbol}
    (hnode : s.nodeAt n.toNat = .leaf w sym) :
    CodeWalkInv s (n.toNat :: done) stack (t.write sym.toNat p) := by
  have hwalk : s.walk s.root.toNat p = some n.toNat := inv.path (n, p) List.mem_cons_self
  have hlt := h.lt_of_walk hwalk
  have hleaf := (h.isLeafAt_iff hlt).1 (State.isLeafAt_of_leaf hnode)
  have hperm := seenNodes_cons_perm done (n, p) stack
  rw [← State.symbolAt_of_leaf hnode]
  refine ⟨hperm.nodup inv.nodup, fun q hq => inv.path q (List.mem_cons_of_mem _ hq),
    List.forall_mem_cons.2 ⟨hlt, inv.done_lt⟩, hperm.mem_iff.1 inv.root_mem, ?child, ?code, ?noCode⟩
  case child =>
    intro m b hm
    have hne : m ≠ n.toNat := by have := hm.1; omega
    rw [List.mem_cons, or_iff_right hne, ← inv.child_mem m b hm]
    exact hperm.mem_iff.symm
  case code =>
    intro x hx hxL
    by_cases hxn : x = n.toNat
    · subst hxn; exact ⟨p, Table.read_write_self _ _ _, hwalk⟩
    · rw [Table.read_write_of_ne _ _ (mt (h.symbolAt_inj hxL hleaf) hxn)]
      exact inv.code x ((List.mem_cons.1 hx).resolve_left hxn) hxL
  case noCode =>
    intro i hi hno
    rw [Table.read_write_of_ne _ _ (hno _ hleaf).symm]
    exact inv.noCode i hi hno

theorem CodeWalkInv.internal (inv : CodeWalkInv s done ((n, p) :: stack) t) {w : Word} {l r : NodeIdx}
    (hnode : s.nodeAt n.toNat = .internal w l r) :
    CodeWalkInv s (n.toNat :: done) ((l, p ++ [false]) :: (r, p ++ [true]) :: stack) t := by
  have hwalk : s.walk s.root.toNat p = some n.toNat := inv.path (n, p) List.mem_cons_self
  have hleaf := State.isLeafAt_of_internal hnode
  have hn := h.isInternal_of_walk hwalk hleaf
  have hl : l.toNat = s.childAt n.toNat false := (State.leftAt_of_internal hnode).symm
  have hr : r.toNat = s.childAt n.toNat true := (State.rightAt_of_internal hnode).symm
  have hperm := seenNodes_cons_perm done (n, p) stack
  have hnodup := hperm.nodup inv.nodup
  have hnd : n.toNat ∉ done := fun hmem =>
    (List.nodup_cons.1 hnodup).1 (List.mem_append_left _ hmem)
  have hnew : ∀ b, s.childAt n.toNat b ∉ seenNodes (n.toNat :: done) stack := fun b hmem =>
    hnd ((inv.child_mem _ b hn).1 (hperm.mem_iff.2 hmem))
  have hseen : ∀ m, m ∈ seenNodes (n.toNat :: done) ((l, p ++ [false]) :: (r, p ++ [true]) :: stack) ↔
      (∃ b, m = s.childAt n.toNat b) ∨ m ∈ seenNodes done ((n, p) :: stack) := by
    intro m
    rw [mem_seenNodes_cons, mem_seenNodes_cons, hl, hr, Bool.exists_bool, or_assoc, hperm.mem_iff]
    rfl
  refine ⟨?nodup, ?path, List.forall_mem_cons.2 ⟨hn.2, inv.done_lt⟩, (hseen _).2 (.inr inv.root_mem), ?child, ?code,
    inv.noCode⟩
  case nodup =>
    refine (seenNodes_cons_perm _ _ _).symm.nodup (List.nodup_cons.2 ⟨?_,
      (seenNodes_cons_perm _ _ _).symm.nodup (List.nodup_cons.2 ⟨hr ▸ hnew true, hnodup⟩)⟩)
    rw [mem_seenNodes_cons, hl, hr]
    exact not_or.2 ⟨fun heq => Bool.false_ne_true (h.childAt_inj hn hn heq).2, hnew false⟩
  case path =>
    refine List.forall_mem_cons.2 ⟨?_, List.forall_mem_cons.2 ⟨?_, fun q hq => inv.path q (List.mem_cons_of_mem _ hq)⟩⟩
    · exact State.walk_concat_eq_some.2 ⟨_, hwalk, hleaf, hl.symm⟩
    · exact State.walk_concat_eq_some.2 ⟨_, hwalk, hleaf, hr.symm⟩
  case child =>
    intro m b hm
    rw [hseen, inv.child_mem m b hm, List.mem_cons]
    refine or_congr_left ⟨fun ⟨c, hc⟩ => (h.childAt_inj hm hn hc).1, ?_⟩
    rintro rfl
    exact ⟨b, rfl⟩
  case code =>
    intro x hx hxL
    have hxn : x ≠ n.toNat := by have := hn.1; omega
    exact inv.code x ((List.mem_cons.1 hx).resolve_left hxn) hxL

theorem CodeWalkInv.length_le (inv : CodeWalkInv s done stack t) :
    done.length + stack.length ≤ 2 * s.leafCount - 1 := by
  have hsub : seenNodes done stack ⊆ List.range (2 * s.leafCount - 1) := by
    intro m hm
    obtain hm | hm := List.mem_append.1 hm
    · exact List.mem_range.2 (inv.done_lt m hm)
    · obtain ⟨q, hq, rfl⟩ := List.mem_map.1 hm
      exact List.mem_range.2 (h.lt_of_walk (inv.path q hq))
  simpa [seenNodes] using (inv.nodup.subperm hsub).length_le

/-- One pop for each of the tree's `2L - 1` entries is fuel enough to empty the stack. -/
theorem CodeWalkInv.exists_genWalk {fuel : Nat} (inv : CodeWalkInv s done stack t)
    (hfuel : 2 * s.leafCount - 1 ≤ done.length + fuel) : ∃ done', CodeWalkInv s done' [] (genWalk s fuel stack t) := by
  induction fuel generalizing done stack t with
  | zero =>
    have hlen := inv.length_le h
    obtain rfl : stack = [] := List.eq_nil_of_length_eq_zero (by omega)
    exact ⟨done, inv⟩
  | succ fuel ih =>
    match stack with
    | [] => exact ⟨done, by rwa [genWalk_nil]⟩
    | (n, p) :: stack =>
      cases hnode : s.nodeAt n.toNat with
      | leaf w sym =>
        rw [genWalk_leaf hnode]
        exact ih (inv.leaf h hnode) (by rw [List.length_cons]; omega)
      | internal w l r =>
        rw [genWalk_internal hnode]
        exact ih (inv.internal h hnode) (by rw [List.length_cons]; omega)

/-- A walk with nothing left on its stack has popped the whole tree: the root, and each node after its parent. -/
theorem CodeWalkInv.mem_done (inv : CodeWalkInv s done [] t) {n : Nat} (hn : n < 2 * s.leafCount - 1) : n ∈ done := by
  have hseen : seenNodes done [] = done := List.append_nil done
  by_cases hroot : n = s.root.toNat
  · rw [hroot, ← hseen]
    exact inv.root_mem
  · obtain ⟨m, b, hm, rfl⟩ := h.exists_parent (m := n) (by have := h.root_eq; omega)
    have hlt := h.childAt_lt hm b
    rw [← hseen, inv.child_mem m b hm]
    exact inv.mem_done hm.2
termination_by 2 * s.leafCount - n
decreasing_by have := hm.2; omega

/-- What GEN_TABLE writes for a tree of two leaves or more (R152). -/
theorem State.BuiltShape.exists_codeWalkInv_generatedCode (htree : s.treeState = .built) (hL : s.leafCount ≠ 1) :
    ∃ done, CodeWalkInv s done [] s.generatedCode := by
  rw [State.generatedCode_of_leaves htree hL]
  refine (codeWalkInv_start h s.mem.code).exists_genWalk h ?_
  have := h.leafCount_le_nsym
  rw [Params.nodeMax, List.length_nil]
  omega

end Walk

/-! ### The obligation -/

theorem codesAreTreePaths_of_genTable {s t : State} (h : s.BuiltShape) (htree : s.treeState = .built)
    (ht : exec .genTable s = .next t) : t.CodesAreTreePaths := by
  have hne : s.treeState ≠ .none := by rw [htree]; nofun
  have hL : t.leafCount = s.leafCount := by rw [State.leafCount, leaves_of_genTable ht, State.leafCount]
  have hsym : t.symbolAt = s.symbolAt := by funext x; rw [State.symbolAt, nodeAt_of_genTable ht, State.symbolAt]
  rw [State.CodesAreTreePaths, hL, hsym, root_of_genTable ht, params_of_genTable ht]
  by_cases hone : s.leafCount = 1
  · have hread : ∀ i, s.generatedCode.read i =
        if i = s.symbolAt 0 then some [false] else if i < s.params.nsym then some [] else s.mem.code.read i := by
      intro i
      rw [State.generatedCode_of_one_leaf htree hone, Table.read_write, Table.read_fill]
    refine ⟨fun x hx => ?_, fun i hi hno => ?_⟩
    · obtain rfl : x = 0 := by omega
      rw [if_pos hone]
      exact codeAt_of_genTable ht hne (by rw [hread, if_pos rfl])
    · exact codeAt_of_genTable ht hne (by rw [hread, if_neg (hno 0 (by omega)).symm, if_pos hi])
  · obtain ⟨done, inv⟩ := h.exists_codeWalkInv_generatedCode htree hone
    refine ⟨fun x hx => ?_, fun i hi hno => codeAt_of_genTable ht hne (inv.noCode i hi hno)⟩
    obtain ⟨p, hread, hwalk⟩ := inv.code x (inv.mem_done h (by omega)) hx
    rw [if_neg hone, codeAt_of_genTable ht hne hread, State.walk_congr (nodeAt_of_genTable ht), hwalk]

/-- Settles O19, by the invariant of the stack walk: it pops every entry once, with the entry's path from the root. -/
theorem genTableWritesTreePaths : Obligations.GenTableWritesTreePaths := by
  constructor
  · intro s _ htree hshape
    obtain ⟨t, ht⟩ := exists_exec_genTable s
    have hne : s.treeState ≠ .none := by rw [htree]; nofun
    exact ⟨t, ht, result_of_genTable ht hne, by rw [tableState_of_genTable ht hne, htree]; rfl,
      codesAreTreePaths_of_genTable hshape htree ht⟩
  · intro s htree
    obtain ⟨t, ht⟩ := exists_exec_genTable s
    have hne : s.treeState ≠ .none := by rw [htree]; nofun
    refine ⟨t, ht, result_of_genTable ht hne, by rw [tableState_of_genTable ht hne, htree]; rfl, fun i hi => ?_⟩
    exact codeAt_of_genTable ht hne (by rw [State.generatedCode_of_empty htree, Table.read_fill, if_pos hi])

end Sys2Proof.Machine
end

section
/-! PROOFS. GEN_TABLE is reproducible (spec/42_code_table.md R157): the CODE contents it writes are a function of the
tree, and BUILD_TREE's tree is one of the FREQ contents. -/

namespace Sys2Proof.Machine

/-! ### Two states with the same tree -/

/-- Both tables hold the same written value at entry `i`. -/
def Table.AgreeAt (t t' : Table Bits) (i : Nat) : Prop := ∃ c, t.read i = some c ∧ t'.read i = some c

theorem Table.AgreeAt.write {t t' : Table Bits} {i : Nat} (h : t.AgreeAt t' i) (j : Nat) (c : Bits) :
    (t.write j c).AgreeAt (t'.write j c) i := by
  obtain ⟨d, hd, hd'⟩ := h
  refine ⟨if i = j then c else d, ?_, ?_⟩
  · rw [Table.read_write, hd, apply_ite some]
  · rw [Table.read_write, hd', apply_ite some]

theorem Table.agreeAt_fill (t t' : Table Bits) {i n : Nat} (hi : i < n) (c : Bits) :
    (t.fill n c).AgreeAt (t'.fill n c) i :=
  ⟨c, by rw [Table.read_fill, if_pos hi], by rw [Table.read_fill, if_pos hi]⟩

/-- Entries 0 to `M - 1` of the two states are equal, and the children of these entries are among them. -/
def State.SameNodesBelow (s s' : State) (M : Nat) : Prop :=
  ∀ n < M, s.nodeAt n = s'.nodeAt n ∧ s.leftAt n < M ∧ s.rightAt n < M

/-- The two states have the same symbols and the same tree: the entries reached from the root are equal. -/
structure State.SameTree (s s' : State) : Prop where
  nsym_eq : s.params.nsym = s'.params.nsym
  treeState_eq : s.treeState = s'.treeState
  leaves_eq : s.leaves = s'.leaves
  root_eq : s.root = s'.root
  nodes : s.treeState = .built → ∃ M, s.root.toNat < M ∧ s.SameNodesBelow s' M

/-! ### Equal trees give equal codes -/

theorem genWalk_agreeAt {s s' : State} {M i : Nat} (hsame : s.SameNodesBelow s' M) (fuel : Nat)
    (stack : List (NodeIdx × Bits)) (hstack : ∀ q ∈ stack, q.1.toNat < M) {t t' : Table Bits} (ht : t.AgreeAt t' i) :
    (genWalk s fuel stack t).AgreeAt (genWalk s' fuel stack t') i := by
  induction fuel generalizing stack t t' with
  | zero => exact ht
  | succ fuel ih =>
    match stack with
    | [] => rwa [genWalk_nil, genWalk_nil]
    | (n, p) :: stack =>
      obtain ⟨hn, hrest⟩ := List.forall_mem_cons.1 hstack
      obtain ⟨heq, hleft, hright⟩ := hsame n.toNat hn
      cases hnode : s.nodeAt n.toNat with
      | leaf w sym =>
        rw [genWalk_leaf hnode, genWalk_leaf (heq.symm.trans hnode)]
        exact ih stack hrest (ht.write _ _)
      | internal w l r =>
        rw [genWalk_internal hnode, genWalk_internal (heq.symm.trans hnode)]
        rw [State.leftAt_of_internal hnode] at hleft
        rw [State.rightAt_of_internal hnode] at hright
        exact ih _ (List.forall_mem_cons.2 ⟨hleft, List.forall_mem_cons.2 ⟨hright, hrest⟩⟩) ht

theorem State.SameTree.generatedCode_agreeAt {s s' : State} (same : s.SameTree s') (htree : s.treeState ≠ .none)
    {i : Nat} (hi : i < s.params.nsym) : s.generatedCode.AgreeAt s'.generatedCode i := by
  have hcleared := Table.agreeAt_fill s.mem.code s'.mem.code hi []
  have hstate := same.treeState_eq
  have hcount : s.leafCount = s'.leafCount := congrArg BitVec.toNat same.leaves_eq
  cases hkind : s.treeState with
  | none => exact absurd hkind htree
  | empty =>
    rw [State.generatedCode_of_empty hkind, State.generatedCode_of_empty (hstate.symm.trans hkind), ← same.nsym_eq]
    exact hcleared
  | built =>
    have hkind' := hstate.symm.trans hkind
    obtain ⟨M, hroot, hnodes⟩ := same.nodes hkind
    by_cases hone : s.leafCount = 1
    · have hsym : s.symbolAt 0 = s'.symbolAt 0 := by
        rw [State.symbolAt, State.symbolAt, (hnodes 0 (Nat.zero_lt_of_lt hroot)).1]
      rw [State.generatedCode_of_one_leaf hkind hone, State.generatedCode_of_one_leaf hkind' (hcount ▸ hone),
        ← same.nsym_eq, ← hsym]
      exact hcleared.write _ _
    · have hmax : s.params.nodeMax = s'.params.nodeMax := by rw [Params.nodeMax, Params.nodeMax, same.nsym_eq]
      rw [State.generatedCode_of_leaves hkind hone, State.generatedCode_of_leaves hkind' (hcount ▸ hone),
        ← same.nsym_eq, ← hmax, ← same.root_eq]
      exact genWalk_agreeAt hnodes _ _ (List.forall_mem_singleton.2 hroot) hcleared

theorem State.SameTree.codeAt_eq_of_genTable {s s' t t' : State} (same : s.SameTree s') (htree : s.treeState ≠ .none)
    (h : exec .genTable s = .next t) (h' : exec .genTable s' = .next t') {i : Nat} (hi : i < s.params.nsym) :
    t.codeAt i = t'.codeAt i := by
  obtain ⟨c, hc, hc'⟩ := same.generatedCode_agreeAt htree hi
  rw [codeAt_of_genTable h htree hc, codeAt_of_genTable h' (same.treeState_eq ▸ htree) hc']

/-- GEN_TABLE leaves the tree it has read. An index has 11 bits, so every child is below 2048. -/
theorem sameTree_of_genTable {s t : State} (h : exec .genTable s = .next t) : s.SameTree t where
  nsym_eq := by rw [params_of_genTable h]
  treeState_eq := (treeState_of_genTable h).symm
  leaves_eq := (leaves_of_genTable h).symm
  root_eq := (root_of_genTable h).symm
  nodes _ := ⟨2 ^ 11, s.root.isLt, fun n _ =>
    ⟨by rw [nodeAt_of_genTable h], (nodeLeft (s.nodeAt n)).isLt, (nodeRight (s.nodeAt n)).isLt⟩⟩

/-! ### The children of BUILD_TREE's nodes -/

/-- Every child index in the node list is the index of a node of the list. -/
def ChildrenBelow (nodes : List Node) : Prop :=
  ∀ x ∈ nodes, (nodeLeft x).toNat < nodes.length ∧ (nodeRight x).toNat < nodes.length

theorem childrenBelow_leafNodes (s : State) : ChildrenBelow s.leafNodes := by
  intro x hx
  have hpos := List.length_pos_of_mem hx
  obtain ⟨i, -, hi⟩ := List.mem_filterMap.1 (s.leafNodes_eq_filterMap ▸ hx)
  by_cases hfreq : s.freqAt i = 0
  · rw [State.leafOf_of_freqAt_eq_zero hfreq] at hi
    cases hi
  · rw [State.leafOf_of_freqAt_ne_zero hfreq] at hi
    cases hi
    exact ⟨hpos, hpos⟩

theorem ChildrenBelow.append_internal {nodes : List Node} (h : ChildrenBelow nodes) {a b : Nat}
    (ha : a < nodes.length) (hb : b < nodes.length) (w : Word) :
    ChildrenBelow (nodes ++ [.internal w (BitVec.ofNat 11 a) (BitVec.ofNat 11 b)]) := by
  intro x hx
  rw [List.length_append, List.length_singleton]
  obtain hx | hx := List.mem_append.1 hx
  · exact (h x hx).imp Nat.lt_succ_of_lt Nat.lt_succ_of_lt
  · rw [List.mem_singleton.1 hx, nodeLeft_internal, nodeRight_internal, BitVec.toNat_ofNat, BitVec.toNat_ofNat]
    have := Nat.mod_le a (2 ^ 11)
    have := Nat.mod_le b (2 ^ 11)
    omega

theorem childrenBelow_mergeLoop (fuel : Nat) (pq : List Key) (nodes : List Node) (h : ChildrenBelow nodes)
    (hpq : ∀ k ∈ pq, k.idx < nodes.length) : ChildrenBelow (mergeLoop fuel pq nodes) := by
  induction fuel generalizing pq nodes with
  | zero => exact h
  | succ fuel ih =>
    obtain hstop | ⟨a, b, pq1, pq2, ha, hb, hpass⟩ := mergeLoop_succ_cases fuel pq nodes
    · rwa [hstop]
    · obtain ⟨hamem, rfl, -⟩ := extractMin_some ha
      obtain ⟨hbmem, rfl, -⟩ := extractMin_some hb
      have hmem : ∀ k ∈ (pq.erase a).erase b, k ∈ pq := fun k hk => List.mem_of_mem_erase (List.mem_of_mem_erase hk)
      rw [hpass]
      refine ih _ _ (h.append_internal (hpq a hamem) (hpq b (List.mem_of_mem_erase hbmem)) _) ?_
      rw [List.length_append, List.length_singleton]
      exact List.forall_mem_cons.2 ⟨Nat.lt_succ_self _, fun k hk => Nat.lt_succ_of_lt (hpq k (hmem k hk))⟩

theorem childrenBelow_buildNodes (s : State) : ChildrenBelow (buildNodes s.leafNodes) := by
  refine childrenBelow_mergeLoop _ _ _ (childrenBelow_leafNodes s) fun k hk => ?_
  obtain ⟨m, hm, rfl⟩ := mem_leafKeys.1 hk
  exact hm

/-! ### Equal FREQ contents give equal trees (R138) -/

theorem params_of_buildTree {s t : State} (h : exec .buildTree s = .next t) : t.params = s.params := by
  cases h; rfl

theorem treeState_ne_none_of_buildTree {s t : State} (h : exec .buildTree s = .next t) : t.treeState ≠ .none := by
  rw [treeState_of_buildTree h]
  split
  · nofun
  · nofun

theorem root_lt_of_buildTree {s t : State} (h : exec .buildTree s = .next t) (htree : t.treeState = .built) :
    t.root.toNat < (buildNodes s.leafNodes).length := by
  have hpos : s.leafNodes.length ≠ 0 := by
    intro hzero
    rw [treeState_of_buildTree h, if_pos hzero] at htree
    cases htree
  have := Nat.mod_le (2 * s.leafNodes.length - 2) (2 ^ 11)
  rw [root_of_buildTree h, if_neg hpos, BitVec.toNat_ofNat, length_buildNodes]
  omega

theorem sameTree_of_buildTree {s1 s2 t1 t2 : State} (hsym : s1.params.symW = s2.params.symW)
    (hfreq : ∀ i < s1.params.nsym, s1.freqAt i = s2.freqAt i) (h1 : exec .buildTree s1 = .next t1)
    (h2 : exec .buildTree s2 = .next t2) : t1.SameTree t2 := by
  obtain ⟨hleaves, -, hroot, htree, -⟩ := buildTreeDependsOnFreqOnly s1 s2 t1 t2 hsym hfreq h1 h2
  have hleafNodes := State.leafNodes_congr hsym hfreq
  refine ⟨?nsym, htree, hleaves, hroot, fun hbuilt => ⟨_, root_lt_of_buildTree h1 hbuilt, fun n hn => ?node⟩⟩
  case nsym => rw [params_of_buildTree h1, params_of_buildTree h2, Params.nsym, Params.nsym, hsym]
  case node =>
    have hnode1 := nodeAt_of_buildTree h1 hn
    have hnode2 := nodeAt_of_buildTree h2 (hleafNodes ▸ hn)
    rw [State.leftAt, State.rightAt, hnode1, hnode2]
    exact ⟨by simp only [hleafNodes], childrenBelow_buildNodes s1 _ (List.getElem_mem hn)⟩

/-! ### The obligation -/

/-- Settles O20: the first GEN_TABLE leaves the tree the second reads, and equal FREQ contents give equal trees. -/
theorem genTableIsReproducible : Obligations.GenTableIsReproducible := by
  constructor
  · intro s t u ht hu i hi
    by_cases htree : s.treeState = .none
    · have hcode := code_of_genTable_of_no_tree hu ((treeState_of_genTable ht).trans htree)
      rw [State.codeAt_congr (params_of_genTable hu) hcode]
    · exact ((sameTree_of_genTable ht).codeAt_eq_of_genTable htree ht hu hi).symm
  · intro s1 s2 t1 t2 u1 u2 _ hsym hfreq ht1 ht2 hu1 hu2 i hi
    have same := sameTree_of_buildTree hsym hfreq ht1 ht2
    exact same.codeAt_eq_of_genTable (treeState_ne_none_of_buildTree ht1) hu1 hu2
      (by rwa [params_of_buildTree ht1])

end Sys2Proof.Machine
end

section
/-! PROOFS. `SymOf` (spec/42_code_table.md R154): with the table READY no two symbols share a code, so `SymOf` finds the
symbol of the leaf that the walk ends at. -/

namespace Sys2Proof.Machine

/-! ### A READY table (R45) -/

theorem State.Inv.treeState_eq_built {s : State} (h : s.Inv) (hready : s.tableState = .ready) :
    s.treeState = .built := by
  obtain ⟨-, -, -, -, htable, -⟩ := h
  obtain ⟨hnone, hempty⟩ := htable (by rw [hready]; nofun)
  cases hkind : s.treeState with
  | none => exact absurd hkind hnone
  | empty =>
    rw [hready, hkind] at hempty
    cases hempty.2 rfl
  | built => rfl

theorem State.Inv.builtShape {s : State} (h : s.Inv) (hready : s.tableState = .ready) : s.BuiltShape := by
  have hbuilt := h.treeState_eq_built hready
  obtain ⟨-, -, -, ⟨-, hshape⟩, -⟩ := h
  exact hshape hbuilt

theorem State.Inv.codesAreTreePaths {s : State} (h : s.Inv) (hready : s.tableState = .ready) :
    s.CodesAreTreePaths := by
  obtain ⟨-, -, -, -, -, -, hcodes⟩ := h
  exact hcodes hready

section Codes

variable {s : State} (hcodes : s.CodesAreTreePaths)
include hcodes

theorem State.CodesAreTreePaths.codeAt_of_one_leaf (hL : s.leafCount = 1) : s.codeAt (s.symbolAt 0) = [false] := by
  obtain ⟨hleaf, -⟩ := hcodes
  have h0 := hleaf 0 (by omega)
  rwa [if_pos hL] at h0

theorem State.CodesAreTreePaths.walk_codeAt (hL : s.leafCount ≠ 1) {x : Nat} (hx : x < s.leafCount) :
    s.walk s.root.toNat (s.codeAt (s.symbolAt x)) = some x := by
  obtain ⟨hleaf, -⟩ := hcodes
  have hwalk := hleaf x hx
  rwa [if_neg hL] at hwalk

/-- Only the symbols of leaves have a code (R153). -/
theorem State.CodesAreTreePaths.exists_leaf {i : Nat} (hi : i < s.params.nsym) (hne : s.codeAt i ≠ []) :
    ∃ x < s.leafCount, s.symbolAt x = i := by
  obtain ⟨-, hnone⟩ := hcodes
  by_contra hno
  exact hne (hnone i hi fun x hx heq => hno ⟨x, hx, heq⟩)

theorem State.CodesAreTreePaths.codeAt_inj {i j : Nat} (hi : i < s.params.nsym) (hj : j < s.params.nsym)
    (hne : s.codeAt i ≠ []) (heq : s.codeAt i = s.codeAt j) : i = j := by
  obtain ⟨x, hx, rfl⟩ := hcodes.exists_leaf hi hne
  obtain ⟨y, hy, rfl⟩ := hcodes.exists_leaf hj (heq ▸ hne)
  by_cases hL : s.leafCount = 1
  · rw [show x = y by omega]
  · have hwalk := hcodes.walk_codeAt hL hx
    rw [heq, hcodes.walk_codeAt hL hy] at hwalk
    rw [Option.some.inj hwalk]

/-- `SymOf(c)` is the one symbol whose non-empty code is `c`. -/
theorem State.CodesAreTreePaths.symOf_eq_some {c : Bits} {i : Nat} :
    s.symOf c = some i ↔ i < s.params.nsym ∧ c ≠ [] ∧ s.codeAt i = c := by
  have hpred : ∀ j, (s.clen j != 0 && s.codeAt j == c) = true ↔ c ≠ [] ∧ s.codeAt j = c := by
    intro j
    rw [Bool.and_eq_true, bne_iff_ne, beq_iff_eq, State.clen, Ne, List.length_eq_zero_iff]
    exact and_congr_left fun hj => by rw [hj]
  rw [State.symOf, List.find?_range_eq_some]
  constructor
  · rintro ⟨hfound, hi, -⟩
    exact ⟨List.mem_range.1 hi, (hpred i).1 hfound⟩
  · rintro ⟨hi, hne, rfl⟩
    refine ⟨(hpred i).2 ⟨hne, rfl⟩, List.mem_range.2 hi, fun j hj => ?_⟩
    rw [Bool.not_eq_true', ← Bool.not_eq_true, hpred]
    rintro ⟨-, heq⟩
    exact hj.ne' (hcodes.codeAt_inj hi (hj.trans hi) hne heq.symm)

end Codes

/-! ### The obligation -/

/-- With two leaves or more, the codes are exactly the paths to the leaves (R154). -/
theorem State.CodesAreTreePaths.symOf_eq_some_iff_walk {s : State} (hcodes : s.CodesAreTreePaths) (h : s.BuiltShape)
    (hL : 2 ≤ s.leafCount) {c : Bits} {i : Nat} :
    s.symOf c = some i ↔ ∃ x < s.leafCount, s.symbolAt x = i ∧ s.walk s.root.toNat c = some x := by
  have hone : s.leafCount ≠ 1 := by omega
  rw [hcodes.symOf_eq_some]
  constructor
  · rintro ⟨hi, hne, rfl⟩
    obtain ⟨x, hx, rfl⟩ := hcodes.exists_leaf hi hne
    exact ⟨x, hx, rfl, hcodes.walk_codeAt hone hx⟩
  · rintro ⟨x, hx, rfl, hwalk⟩
    exact ⟨h.symbolAt_lt hx, h.ne_nil_of_walk hL hx hwalk, h.walk_inj (hcodes.walk_codeAt hone hx) hwalk⟩

/-- The one code of a single-leaf tree is "0" (R153). -/
theorem State.CodesAreTreePaths.symOf_eq_some_iff_of_one_leaf {s : State} (hcodes : s.CodesAreTreePaths)
    (h : s.BuiltShape) (hL : s.leafCount = 1) {c : Bits} {i : Nat} :
    s.symOf c = some i ↔ c = [false] ∧ i = s.symbolAt 0 := by
  have hzero := hcodes.codeAt_of_one_leaf hL
  rw [hcodes.symOf_eq_some]
  constructor
  · rintro ⟨hi, hne, rfl⟩
    obtain ⟨x, hx, rfl⟩ := hcodes.exists_leaf hi hne
    obtain rfl : x = 0 := by omega
    exact ⟨hzero, rfl⟩
  · rintro ⟨rfl, rfl⟩
    exact ⟨h.symbolAt_lt (by omega), List.cons_ne_nil _ _, hzero⟩

/-- Settles O24: the codes of a READY table are the paths to the leaves, and a leaf has only one path. -/
theorem symOfIsTreeWalk : Obligations.SymOfIsTreeWalk := by
  intro s hinv hready c i
  have hcodes := hinv.codesAreTreePaths hready
  have hshape := hinv.builtShape hready
  exact ⟨fun hL => hcodes.symOf_eq_some_iff_walk hshape hL, fun hL => hcodes.symOf_eq_some_iff_of_one_leaf hshape hL⟩

end Sys2Proof.Machine
end

section
/-! PROOFS. The padding header processor (spec/43_padding_header.md): the order of a stream's bits (R170), the layout
that `Pack` writes (R173 to R175), and `Unpack` (R176 to R178), which gives back what was packed (R179). -/

namespace Sys2Proof.Machine

/-! ### The stream of a byte sequence (R8, R170) -/

theorem ubin8_getElem? (v : Byte) {i : Nat} (hi : i < 8) : (ubin8 v)[i]? = some (v.getLsbD (7 - i)) := by
  simp [ubin8, hi]

/-- Settles O26: the first byte holds the stream's bits 0 to 7, and each further byte starts 8 bits later. -/
theorem artifactBitOrder : Obligations.ArtifactBitOrder := by
  intro B
  induction B with
  | nil => intro i hi; simp at hi
  | cons b B ih =>
    intro i hi
    rw [unpack8_cons]
    by_cases hfirst : i < 8
    · rw [List.getElem?_append_left (by rwa [ubin8_length]), ubin8_getElem? b hfirst, Nat.mod_eq_of_lt hfirst,
        Nat.div_eq_of_lt hfirst, List.getD_cons_zero]
    · obtain ⟨j, rfl⟩ : ∃ j, i = j + 8 := ⟨i - 8, by omega⟩
      have hj : j < 8 * B.length := by rw [List.length_cons] at hi; omega
      rw [List.getElem?_append_right (by rw [ubin8_length]; omega), ubin8_length, Nat.add_sub_cancel, ih j hj,
        Nat.add_mod_right, Nat.add_div_right _ (by decide), List.getD_cons_succ]

/-! ### Packing and unpacking bytes (R8) -/

theorem ubin8_uint {S : Bits} (h : S.length = 8) : ubin8 (uint S) = S := by
  match S, h with
  | [a, b, c, d, e, f, g, i], _ => exact ubin8_uint_eight a b c d e f g i

/-- The first byte packs the first 8 bits. -/
theorem pack8_append {S : Bits} (T : Bits) (h : S.length = 8) : pack8 (S ++ T) = uint S :: pack8 T := by
  have hbytes : (S ++ T).length / 8 = T.length / 8 + 1 := by rw [List.length_append, h]; omega
  have hdrop : ∀ k, (S ++ T).drop (8 * (k + 1)) = T.drop (8 * k) := by
    intro k
    rw [Nat.mul_succ, Nat.add_comm, ← h, ← List.drop_drop, List.drop_left]
  have hfirst : (S ++ T).take 8 = S := by rw [← h, List.take_left]
  simp only [pack8, hbytes, List.range_succ_eq_map, List.map_cons, List.map_map, Nat.mul_zero, List.drop_zero, hfirst,
    Function.comp_def, Nat.succ_eq_add_one, hdrop]

theorem unpack8_pack8 {n : Nat} {S : Bits} (h : S.length = 8 * n) : unpack8 (pack8 S) = S := by
  induction n generalizing S with
  | zero => rw [List.length_eq_zero_iff.1 h]; rfl
  | succ n ih =>
    have hfirst : (S.take 8).length = 8 := by rw [List.length_take]; omega
    have hrest : (S.drop 8).length = 8 * n := by rw [List.length_drop]; omega
    calc unpack8 (pack8 S)
        = unpack8 (pack8 (S.take 8 ++ S.drop 8)) := by rw [List.take_append_drop]
      _ = S.take 8 ++ S.drop 8 := by rw [pack8_append _ hfirst, unpack8_cons, ubin8_uint hfirst, ih hrest]
      _ = S := List.take_append_drop 8 S

/-! ### The layout of a packed artifact (R173 to R175) -/

theorem unpack8_pack (raw : Bits) : unpack8 (pack raw) = paddedStream raw :=
  unpack8_pack8 (paddedStream_length raw)

theorem pack_length (raw : Bits) : (pack raw).length = raw.length / 8 + 2 := by
  rw [pack, pack8_length, paddedStream_length, Nat.mul_div_cancel_left _ (by decide)]

/-- The header byte, and then the raw bits and the filler in bytes of their own. -/
theorem pack_eq_cons (raw : Bits) : pack raw =
    BitVec.ofNat 8 (padCount raw.length) :: pack8 (raw ++ List.replicate (padCount raw.length) false) := by
  rw [pack, paddedStream, List.append_assoc, pack8_append _ (ubin8_length _), uint_ubin8]

theorem ofNat_padCount_toNat (n : Nat) : (BitVec.ofNat 8 (padCount n)).toNat = padCount n :=
  Nat.mod_eq_of_lt ((padCount_le n).trans_lt (by decide))

/-- Settles O25: the stream is whole bytes, so reading it back gives it, and its first 8 bits are the header. -/
theorem packLayout : Obligations.PackLayout := by
  intro raw
  refine ⟨unpack8_pack raw, pack_length raw, _, _, pack_eq_cons raw, ?_⟩
  rw [ofNat_padCount_toNat]
  exact ⟨rfl, padCount_pos _, padCount_le _⟩

/-! ### The three answers to a header (R176, R177) -/

theorem headerInfo_eq_ofNat (h subcause : Byte) :
    headerInfo h subcause = BitVec.ofNat 32 (h.toNat * 256 + subcause.toNat) := by
  apply BitVec.eq_of_toNat_eq
  have hh := h.isLt
  have hs := subcause.isLt
  have happend : (headerInfo h subcause).toNat = h.toNat <<< 8 ||| subcause.toNat := by
    rw [headerInfo, BitVec.toNat_append, BitVec.toNat_append]
    simp
  rw [happend, ← Nat.shiftLeft_add_eq_or_of_lt hs, Nat.shiftLeft_eq, BitVec.toNat_ofNat, Nat.mod_eq_of_lt (by omega)]

section Header

variable {h : Byte} {rest : List Byte}

theorem unpack_cons_of_header_gt (hh : 8 < h.toNat) :
    unpack (h :: rest) = .error { code := .corruptHeader, info := headerInfo h 0x01 } := if_pos hh

theorem unpack_cons_of_short (hh : h.toNat ≤ 8) (hlen : 8 * rest.length < h.toNat) :
    unpack (h :: rest) = .error { code := .corruptHeader, info := headerInfo h 0x02 } := by
  have hshort : 8 * (h :: rest).length < 8 + h.toNat := by rw [List.length_cons]; omega
  simp only [unpack, if_neg hh.not_gt, if_pos hshort]

/-- The payload is the stream after the header but for its last `h` bits. -/
theorem unpack_cons_of_fits (hh : h.toNat ≤ 8) (hlen : h.toNat ≤ 8 * rest.length) :
    unpack (h :: rest) = .ok (h, (unpack8 rest).take (8 * rest.length - h.toNat)) := by
  have hfits : ¬ 8 * (h :: rest).length < 8 + h.toNat := by rw [List.length_cons]; omega
  have hcount : 8 * (h :: rest).length - h.toNat - 8 = 8 * rest.length - h.toNat := by rw [List.length_cons]; omega
  have hpayload : (unpack8 (h :: rest)).drop 8 = unpack8 rest := by
    rw [unpack8_cons, ← ubin8_length h, List.drop_left]
  simp only [unpack, if_neg hh.not_gt, if_neg hfits, hcount, hpayload]

end Header

/-- Settles O28: one answer for each range of the header, and the payload's length. -/
theorem unpackHeaderCases : Obligations.UnpackHeaderCases := by
  refine ⟨rfl, fun h rest => ⟨fun hh => ?_, fun hh hshort => ?_, fun hh hfits => ?_⟩⟩
  · rw [unpack_cons_of_header_gt hh, headerInfo_eq_ofNat]; rfl
  · rw [unpack_cons_of_short hh (by omega), headerInfo_eq_ofNat]; rfl
  · refine ⟨_, unpack_cons_of_fits hh (by omega), rfl, ?_⟩
    rw [List.length_take, unpack8_length]
    omega

/-- Settles O29: the failures depend on the header and the length alone; the payload leaves the last `h` bits out. -/
theorem unpackIgnoresFiller : Obligations.UnpackIgnoresFiller := by
  intro h B B' hlen hbits
  by_cases hh : 8 < h.toNat
  · rw [unpack_cons_of_header_gt hh, unpack_cons_of_header_gt hh]
  have hle : h.toNat ≤ 8 := Nat.le_of_not_lt hh
  by_cases hshort : 8 * B.length < h.toNat
  · rw [unpack_cons_of_short hle hshort, unpack_cons_of_short hle (hlen ▸ hshort)]
  · have hfits : h.toNat ≤ 8 * B.length := Nat.le_of_not_lt hshort
    rw [unpack_cons_of_fits hle hfits, unpack_cons_of_fits hle (hlen ▸ hfits), hbits, hlen]

/-! ### The round trip (R179) -/

theorem length_append_filler (raw : Bits) :
    (raw ++ List.replicate (padCount raw.length) false).length = 8 * (raw.length / 8 + 1) := by
  simp only [List.length_append, List.length_replicate, padCount]; omega

/-- Settles O27: the bytes after the header are the raw bits and as many filler bits as the header says to leave out. -/
theorem unpackInvertsPack : Obligations.UnpackInvertsPack := by
  intro raw
  have hheader := ofNat_padCount_toNat raw.length
  have hbytes : 8 * (pack8 (raw ++ List.replicate (padCount raw.length) false)).length =
      raw.length + padCount raw.length := by
    rw [pack8_length, length_append_filler, Nat.mul_div_cancel_left _ (by decide), ← length_append_filler,
      List.length_append, List.length_replicate]
  rw [pack_eq_cons, unpack_cons_of_fits (hheader.le.trans (padCount_le _)) (by omega), hheader, hbytes,
    Nat.add_sub_cancel, unpack8_pack8 (length_append_filler raw), List.take_left, padCount]

end Sys2Proof.Machine
end

section
/-! PROOFS. The encoder (spec/44_encoder.md R190 to R195): the raw bit string of a text, the text loop up to its first
failure, and the obligations about what ENCODE writes and leaves unchanged. -/

namespace Sys2Proof.Machine

/-! ### The raw bit string (R191) -/

@[simp] theorem State.rawBitsOf_zero (s : State) : s.rawBitsOf 0 = [] := rfl

theorem State.rawBitsOf_succ (s : State) (n : Nat) :
    s.rawBitsOf (n + 1) = s.rawBitsOf n ++ s.codeAt (s.textAt n).toNat := by
  simp only [State.rawBitsOf, List.range_succ, List.flatMap_append, List.flatMap_singleton]

theorem State.monotone_length_rawBitsOf (s : State) : Monotone fun n => (s.rawBitsOf n).length :=
  monotone_nat_of_le_succ fun n => by
    rw [State.rawBitsOf_succ, List.length_append]
    exact Nat.le_add_right _ _

/-! ### The text loop (R190, R194) -/

section TextLoop

variable {s : State} {i : Nat} (n : Nat)

theorem encodeScan_of_missing (hcode : s.codeAt (s.textAt i).toNat = []) :
    encodeScan s (n + 1) i (s.rawBitsOf i) = .error { code := .missingCode, info := BitVec.ofNat 32 i } := by
  rw [encodeScan, if_pos (List.length_eq_zero_iff.2 hcode)]

theorem encodeScan_of_overflow (hcode : s.codeAt (s.textAt i).toNat ≠ [])
    (hcap : s.params.artCap < (s.rawBitsOf (i + 1)).length / 8 + 2) :
    encodeScan s (n + 1) i (s.rawBitsOf i) = .error { code := .artOverflow, info := BitVec.ofNat 32 i } := by
  rw [encodeScan, if_neg (mt List.length_eq_zero_iff.1 hcode), ← State.rawBitsOf_succ, if_pos hcap]

theorem encodeScan_of_fits (hcode : s.codeAt (s.textAt i).toNat ≠ [])
    (hfit : (s.rawBitsOf (i + 1)).length / 8 + 2 ≤ s.params.artCap) :
    encodeScan s (n + 1) i (s.rawBitsOf i) = encodeScan s n (i + 1) (s.rawBitsOf (i + 1)) := by
  rw [encodeScan, if_neg (mt List.length_eq_zero_iff.1 hcode), ← State.rawBitsOf_succ, if_neg hfit.not_gt]

/-- While the symbols have codes and the artifact fits, the loop collects the raw bit string. -/
theorem encodeScan_add (hgood : ∀ j < i, s.codeAt (s.textAt j).toNat ≠ [] ∧
      (s.rawBitsOf (j + 1)).length / 8 + 2 ≤ s.params.artCap) :
    encodeScan s (i + n) 0 [] = encodeScan s n i (s.rawBitsOf i) := by
  induction i generalizing n with
  | zero => rw [Nat.zero_add, State.rawBitsOf_zero]
  | succ i ih =>
    obtain ⟨hcode, hfit⟩ := hgood i i.lt_succ_self
    rw [Nat.add_right_comm, Nat.add_assoc, ih (n + 1) fun j hj => hgood j (hj.trans i.lt_succ_self),
      encodeScan_of_fits n hcode hfit]

end TextLoop

/-! ### ENCODE, by the answer of its loop (R190, R193) -/

theorem exec_encode (s : State) : exec .encode s = execEncode s := rfl

/-- Every error code of R230 is not 0, so an error sets the sticky STATUS.ERR. -/
theorem ErrorCode.code_ne_zero (c : ErrorCode) : c.code ≠ 0 := by cases c <;> decide

theorem State.raise_eq (f : Failure) (s : State) :
    s.raise f = { s with result := f.code.code, errInfo := f.info, err := true, cmdLatch := none } := by
  have herr : (s.err || f.code.code != 0) = true := by
    rw [bne_iff_ne.2 f.code.code_ne_zero, Bool.or_true]
  rw [State.raise, State.finish, herr]

theorem State.raise_result_ne_zero (f : Failure) (s : State) : (s.raise f).result ≠ 0 := f.code.code_ne_zero

section Answers

variable {s : State} (htable : s.tableState ≠ .none) (hlen : s.textLen.toNat ≤ s.params.textCap)
include htable hlen

theorem exec_encode_of_error {f : Failure} (hscan : encodeScan s s.textLen.toNat 0 [] = .error f) :
    exec .encode s = .next (s.forgetArt.encodeErrorEffects.raise f) := by
  rw [exec_encode, execEncode, if_neg htable, if_neg hlen.not_gt, hscan]

theorem exec_encode_of_ok {raw : Bits} (hscan : encodeScan s s.textLen.toNat 0 [] = .ok raw) :
    exec .encode s = .next (s.storeArtifact raw).complete := by
  rw [exec_encode, execEncode, if_neg htable, if_neg hlen.not_gt, hscan]

end Answers

/-! ### The obligations -/

/-- Settles O31: an artifact that fits as a whole fits at every index, so the loop collects all the codes of the text. -/
theorem encodePacksTheCodes : Obligations.EncodePacksTheCodes := by
  intro s htable hlen hcodes hfit
  have hscan : encodeScan s s.textLen.toNat 0 [] = .ok (s.rawBitsOf s.textLen.toNat) :=
    encodeScan_add 0 fun j hj => by
      have hle : (s.rawBitsOf (j + 1)).length ≤ (s.rawBitsOf s.textLen.toNat).length :=
        s.monotone_length_rawBitsOf hj
      exact ⟨hcodes j hj, by omega⟩
  refine ⟨s.mem.art.writeList 0 (pack (s.rawBitsOf s.textLen.toNat)), ?_, Table.writeList_epoch _ _ _, ?_, ?_⟩
  · rw [exec_encode_of_ok htable hlen hscan, State.complete_eq, State.storeArtifact, pack_length, padCount]
  · intro k hk
    rw [Table.read_writeList, if_pos ⟨k.zero_le, by rwa [Nat.zero_add, pack_length]⟩, Nat.sub_zero]
  · intro k hk
    rw [Table.read_writeList, pack_length, if_neg (by omega)]

/-- Settles O32: the loop reaches index `i`, and there a missing code is asked for before the artifact's length. -/
theorem encodeReportsFirstFailure : Obligations.EncodeReportsFirstFailure := by
  intro s i htable hlen hi hgood
  obtain ⟨n, hn⟩ := Nat.exists_eq_add_of_lt hi
  have hscan : encodeScan s s.textLen.toNat 0 [] = encodeScan s (n + 1) i (s.rawBitsOf i) := by
    rw [hn, Nat.add_assoc, encodeScan_add (n + 1) hgood]
  constructor
  · intro hcode
    rw [exec_encode_of_error htable hlen (hscan.trans (encodeScan_of_missing n hcode)), State.raise_eq]
    exact ⟨_, _, rfl⟩
  · intro hcode hcap
    rw [exec_encode_of_error htable hlen (hscan.trans (encodeScan_of_overflow n hcode hcap)), State.raise_eq]
    exact ⟨_, _, rfl⟩

/-- Settles O33, by the four things ENCODE can do. -/
theorem encodeChangesOnlyItsOutputs : Obligations.EncodeChangesOnlyItsOutputs := by
  intro s t h
  obtain ⟨-, rfl⟩ | ⟨-, -, rfl⟩ | ⟨-, -, f, hscan, rfl⟩ | ⟨-, -, raw, -, rfl⟩ := execEncode_cases h
  case inl => exact ⟨rfl, fun _ => ⟨rfl, rfl, rfl⟩, fun _ => rfl⟩
  case inr.inl => exact ⟨rfl, fun _ => ⟨rfl, rfl, rfl⟩, fun _ => rfl⟩
  case inr.inr.inl =>
    refine ⟨rfl, fun _ => ⟨rfl, rfl, rfl⟩, fun hcode => ?_⟩
    rw [State.raise_eq] at hcode
    obtain hf | hf := encodeScan_error_code hscan <;> simp [hf, ErrorCode.code] at hcode
  case inr.inr.inr =>
    refine ⟨rfl, fun hres => absurd rfl hres, fun hcode => ?_⟩
    rw [State.complete_eq] at hcode
    simp at hcode

end Sys2Proof.Machine
end

section
/-! PROOFS. The decoder's payload loop on codes (spec/45_decoder.md R210, R212): the answer to one bit, to a path through
the tree, to the code of a symbol and to the codes of a list of symbols. -/

namespace Sys2Proof.Machine

/-! ### One payload bit (R210) -/

theorem State.childOf_toNat (s : State) (cur : NodeIdx) (b : Bool) :
    (s.childOf cur b).toNat = s.childAt cur.toNat b := by
  cases b <;> rfl

/-- A path that ends at an internal node starts at one. -/
theorem State.isLeafAt_eq_false_of_walk {s : State} {m n : Nat} {p : Bits} (hwalk : s.walk m p = some n)
    (hleaf : s.isLeafAt n = false) : s.isLeafAt m = false := by
  cases p with
  | nil => rwa [Option.some.inj hwalk]
  | cons b p =>
    rw [State.walk_cons] at hwalk
    split at hwalk
    next => cases hwalk
    next hm => exact Bool.eq_false_iff.2 hm

theorem emitSymbol_of_lt {s : State} {out : List Symbol} (hout : out.length < s.params.dtextCap) (sym : Symbol)
    (j : Nat) : emitSymbol s out sym j = .ok (out ++ [sym]) := by
  rw [emitSymbol, if_neg hout.ne]

section OneBit

variable {s : State} (hready : s.tableState = .ready)
include hready

theorem decodeScan_cons_of_one_leaf (hL : s.leafCount = 1) (rest : Bits) (j : Nat) (cur : NodeIdx)
    (out : List Symbol) : decodeScan s (false :: rest) j cur out =
      (emitSymbol s out (nodeSymbol (s.nodeAt 0)) j).bind (decodeScan s rest (j + 1) cur) := by
  rw [decodeScan, if_neg (by rw [hready]; nofun), if_pos (State.leafCount_eq_one_iff.1 hL), if_neg Bool.false_ne_true]
  cases emitSymbol s out (nodeSymbol (s.nodeAt 0)) j <;> rfl

variable (hL : s.leafCount ≠ 1) {cur : NodeIdx} {b : Bool}
include hL

theorem decodeScan_cons_of_leaf (hleaf : s.isLeafAt (s.childAt cur.toNat b) = true) (rest : Bits) (j : Nat)
    (out : List Symbol) : decodeScan s (b :: rest) j cur out =
      (emitSymbol s out (nodeSymbol (s.nodeAt (s.childAt cur.toNat b))) j).bind (decodeScan s rest (j + 1) s.root) := by
  rw [decodeScan, if_neg (by rw [hready]; nofun), if_neg (mt State.leafCount_eq_one_iff.2 hL), State.childOf_toNat,
    ← State.isLeafAt, if_pos hleaf]
  cases emitSymbol s out (nodeSymbol (s.nodeAt (s.childAt cur.toNat b))) j <;> rfl

theorem decodeScan_cons_of_internal (hleaf : s.isLeafAt (s.childAt cur.toNat b) = false) (rest : Bits) (j : Nat)
    (out : List Symbol) :
    decodeScan s (b :: rest) j cur out = decodeScan s rest (j + 1) (s.childOf cur b) out := by
  rw [decodeScan, if_neg (by rw [hready]; nofun), if_neg (mt State.leafCount_eq_one_iff.2 hL), State.childOf_toNat,
    ← State.isLeafAt, if_neg (Bool.eq_false_iff.1 hleaf)]

/-- Along a path to an internal node the cursor follows the walk, and no symbol is emitted. -/
theorem decodeScan_append_of_walk {p : Bits} {n : Nat} (hwalk : s.walk cur.toNat p = some n)
    (hleaf : s.isLeafAt n = false) (rest : Bits) (j : Nat) (out : List Symbol) :
    decodeScan s (p ++ rest) j cur out = decodeScan s rest (j + p.length) (BitVec.ofNat 11 n) out := by
  induction p generalizing cur j with
  | nil =>
    obtain rfl := Option.some.inj hwalk
    rw [BitVec.ofNat_toNat, BitVec.setWidth_eq]
    rfl
  | cons b p ih =>
    rw [State.walk_cons] at hwalk
    split at hwalk
    next => cases hwalk
    next =>
      rw [List.cons_append, decodeScan_cons_of_internal hready hL (State.isLeafAt_eq_false_of_walk hwalk hleaf),
        ih (by rwa [State.childOf_toNat]), List.length_cons, Nat.add_right_comm, Nat.add_assoc]

end OneBit

/-! ### The codes of symbols (R212) -/

theorem State.ofNat_symbolAt (s : State) (x : Nat) : BitVec.ofNat 10 (s.symbolAt x) = nodeSymbol (s.nodeAt x) := by
  rw [State.symbolAt, BitVec.ofNat_toNat, BitVec.setWidth_eq]

theorem State.Inv.legal {s : State} (h : s.Inv) : s.params.legal = true := by
  obtain ⟨hP, -⟩ := h
  exact hP

theorem State.Inv.entriesFit {s : State} (h : s.Inv) : s.EntriesFit := by
  obtain ⟨-, -, hfit, -⟩ := h
  exact hfit

/-- A symbol has a code only with the table READY (R45). -/
theorem State.Inv.ready_of_codeAt_ne_nil {s : State} (h : s.Inv) (htable : s.tableState ≠ .none) {i : Nat}
    (hi : i < s.params.nsym) (hcode : s.codeAt i ≠ []) : s.tableState = .ready := by
  obtain ⟨-, -, -, -, -, hempty, -⟩ := h
  cases hstate : s.tableState with
  | none => exact absurd hstate htable
  | empty => exact absurd (hempty hstate i hi) hcode
  | ready => rfl

section Codes

variable {s : State} (hinv : s.Inv) (htable : s.tableState ≠ .none)
include hinv htable

/-- The code of a symbol is read to its last bit, where the symbol is emitted and the cursor goes back to the root. -/
theorem decodeScan_codeAt {i : Nat} (hi : i < s.params.nsym) (hcode : s.codeAt i ≠ []) (rest : Bits) (j : Nat)
    (out : List Symbol) : decodeScan s (s.codeAt i ++ rest) j s.root out =
      (emitSymbol s out (BitVec.ofNat 10 i) (j + (s.clen i - 1))).bind
        (decodeScan s rest (j + s.clen i) s.root) := by
  have hready := hinv.ready_of_codeAt_ne_nil htable hi hcode
  have hcodes := hinv.codesAreTreePaths hready
  have hshape := hinv.builtShape hready
  obtain ⟨x, hx, rfl⟩ := hcodes.exists_leaf hi hcode
  rw [State.clen, State.ofNat_symbolAt]
  by_cases hL : s.leafCount = 1
  case pos =>
    obtain rfl : x = 0 := by omega
    rw [hcodes.codeAt_of_one_leaf hL]
    exact decodeScan_cons_of_one_leaf hready hL rest j s.root out
  case neg =>
    obtain ⟨p, b, hsplit⟩ := (List.eq_nil_or_concat' _).resolve_left hcode
    have hwalk := hcodes.walk_codeAt hL hx
    rw [hsplit] at hwalk ⊢
    obtain ⟨m, hm, hmleaf, rfl⟩ := State.walk_concat_eq_some.1 hwalk
    have hcur : (BitVec.ofNat 11 m).toNat = m := by
      have hlt := hshape.lt_of_walk hm
      have hle := hshape.leafCount_le_nsym.trans (Params.nsym_le_of_legal hinv.legal)
      exact Nat.mod_eq_of_lt (by omega)
    have hleaf : s.isLeafAt (s.childAt (BitVec.ofNat 11 m).toNat b) = true := by
      rw [hcur, hshape.isLeafAt_iff (by omega)]
      exact hx
    rw [List.append_assoc, decodeScan_append_of_walk hready hL hm hmleaf, List.singleton_append,
      decodeScan_cons_of_leaf hready hL hleaf, hcur, List.length_append, List.length_singleton, Nat.add_sub_cancel,
      Nat.add_assoc]

theorem decodeScan_flatMap_codeAt {syms : List Nat} (hsyms : ∀ x ∈ syms, x < s.params.nsym ∧ s.codeAt x ≠ [])
    (rest : Bits) (j : Nat) {out : List Symbol} (hcap : out.length + syms.length ≤ s.params.dtextCap) :
    decodeScan s (syms.flatMap s.codeAt ++ rest) j s.root out =
      decodeScan s rest (j + (syms.flatMap s.codeAt).length) s.root (out ++ syms.map (BitVec.ofNat 10)) := by
  induction syms generalizing j out with
  | nil => rw [List.map_nil, List.append_nil]; rfl
  | cons x syms ih =>
    obtain ⟨⟨hx, hcode⟩, hrest⟩ := List.forall_mem_cons.1 hsyms
    rw [List.length_cons] at hcap
    have hcap' : (out ++ [BitVec.ofNat 10 x]).length + syms.length ≤ s.params.dtextCap := by
      rw [List.length_append, List.length_singleton]; omega
    rw [List.flatMap_cons, List.append_assoc, decodeScan_codeAt hinv htable hx hcode, emitSymbol_of_lt (by omega)]
    refine (ih hrest _ hcap').trans ?_
    rw [List.append_assoc, List.singleton_append, List.map_cons, List.length_append, State.clen, Nat.add_assoc]

end Codes

/-! ### DECODE on a payload that ends at the root (R210) -/

theorem decodeArtifact_of_scan {s : State} {h : Byte} {payload : Bits} {out : List Symbol}
    (hunpack : unpack (s.artBytes s.artLen.toNat) = .ok (h, payload))
    (hscan : decodeScan s payload 0 s.root [] = .ok (s.root, out)) :
    decodeArtifact s = .ok (h, payload.length, out) := by
  simp only [decodeArtifact, hunpack, hscan, ne_eq, not_true, and_false, if_false]

theorem exec_decode_of_ok {s : State} {h : Byte} {n : Nat} {out : List Symbol} (htable : s.tableState ≠ .none)
    (hlen : s.artLen.toNat ≤ s.params.artCap) (hart : decodeArtifact s = .ok (h, n, out)) :
    exec .decode s = .next (s.storeText h n out).complete := by
  have hexec : exec .decode s = execDecode s := rfl
  rw [hexec, execDecode, if_neg htable, if_neg hlen.not_gt, hart]

end Sys2Proof.Machine
end

section
/-! PROOFS. The round trip (spec/44_encoder.md R196): what a successful ENCODE leaves, what NOP and CLRERR keep of it, and
DECODE on the artifact it finds. -/

namespace Sys2Proof.Machine

/-! ### The text as symbols (R191) -/

/-- The symbols of TEXT that ENCODE reads, as table indices. -/
def State.textSymbols (s : State) : List Nat := (List.range s.textLen.toNat).map fun i => (s.textAt i).toNat

@[simp] theorem State.length_textSymbols (s : State) : s.textSymbols.length = s.textLen.toNat := by
  simp [State.textSymbols]

theorem State.rawBitsOf_textLen (s : State) : s.rawBitsOf s.textLen.toNat = s.textSymbols.flatMap s.codeAt :=
  (List.flatMap_map ..).symm

theorem State.getElem?_map_ofNat_textSymbols {s : State} {i : Nat} (hi : i < s.textLen.toNat) :
    (s.textSymbols.map (BitVec.ofNat 10))[i]? = some (s.textAt i) := by
  simp [State.textSymbols, hi]

/-- A TEXT entry has SYM_W bits, whether it has been written or not. -/
theorem State.textAt_lt {s : State} (hfit : s.EntriesFit) (i : Nat) : (s.textAt i).toNat < s.params.nsym := by
  obtain ⟨-, -, -, htext, -⟩ := hfit
  unfold State.textAt
  split
  next v hv => exact (htext _ (mem_of_lookupCell hv)).2
  next => rw [truncTo_toNat]; exact Nat.mod_lt _ (Nat.two_pow_pos _)

/-! ### A successful ENCODE (R190) -/

theorem Params.artCap_bounds_of_legal {P : Params} (h : P.legal = true) : 2 ≤ P.artCap ∧ P.artCap ≤ 262144 := by
  simp only [Params.legal, Params.artCapOk, Bool.and_eq_true, decide_eq_true_eq] at h
  omega

/-- A RESULT of 0 leaves one of the four things ENCODE can do. -/
theorem exec_encode_success {s t : State} (h : exec .encode s = .next t) (hres : t.result = 0) :
    s.tableState ≠ .none ∧ t = (s.storeArtifact (s.rawBitsOf s.textLen.toNat)).complete ∧
    (∀ i < s.textLen.toNat, s.codeAt (s.textAt i).toNat ≠ []) ∧
    (s.textLen.toNat ≠ 0 → (s.rawBitsOf s.textLen.toNat).length / 8 + 2 ≤ s.params.artCap) := by
  obtain ⟨-, rfl⟩ | ⟨-, -, rfl⟩ | ⟨-, -, f, -, rfl⟩ | ⟨htable, -, raw, hscan, rfl⟩ := execEncode_cases h
  case inl => exact absurd hres (State.raise_result_ne_zero _ _)
  case inr.inl => exact absurd hres (State.raise_result_ne_zero _ _)
  case inr.inr.inl => exact absurd hres (State.raise_result_ne_zero _ _)
  case inr.inr.inr =>
    obtain ⟨hcodes, hraw, hfit⟩ := encodeScan_ok hscan
    rw [List.nil_append, ← List.range_eq_range'] at hraw
    obtain rfl : raw = s.rawBitsOf s.textLen.toNat := hraw
    exact ⟨htable, rfl, fun i hi => hcodes i i.zero_le (by omega), hfit⟩

/-- The artifact always has room for its header and one more byte, so the empty text's artifact fits too (R4). -/
theorem pack_rawBitsOf_length_le {s : State} (hP : s.params.legal = true)
    (hfit : s.textLen.toNat ≠ 0 → (s.rawBitsOf s.textLen.toNat).length / 8 + 2 ≤ s.params.artCap) :
    (pack (s.rawBitsOf s.textLen.toNat)).length ≤ s.params.artCap := by
  rw [pack_length]
  by_cases hlen : s.textLen.toNat = 0
  case pos =>
    rw [hlen, State.rawBitsOf_zero]
    exact (Params.artCap_bounds_of_legal hP).1
  case neg => exact hfit hlen

/-- The bytes that were written to ART from entry 0 on read back. -/
theorem State.artBytes_of_writeList {u : State} {a : Table Byte} {B : List Byte} (hart : u.mem.art = a.writeList 0 B) :
    u.artBytes B.length = B := by
  refine List.ext_getElem (by simp [State.artBytes]) fun k _ hk => ?_
  have hread : u.mem.art.read k = some B[k] := by
    rw [hart, Table.read_writeList, if_pos (by omega), Nat.sub_zero, List.getElem?_eq_getElem hk]
  simp only [State.artBytes, List.getElem_map, List.getElem_range, State.artAt_of_read hread]

/-! ### NOP and CLRERR between the two (R113, R117) -/

/-- Any number of NOP and CLRERR commands write the sticky bits and the completion registers only. -/
theorem eq_of_execAll_nop_clrerr {between : List Instr} (hbetween : ∀ i ∈ between, i = .nop ∨ i = .clrerr)
    {t u : State} (h : execAll between t = .next u) : ∃ err overrun result errInfo cmdLatch, u = { t with
      err := err, overrun := overrun, result := result, errInfo := errInfo, cmdLatch := cmdLatch } := by
  induction between generalizing t with
  | nil =>
    cases h
    exact ⟨_, _, _, _, _, rfl⟩
  | cons i between ih =>
    obtain ⟨hi, hrest⟩ := List.forall_mem_cons.1 hbetween
    obtain rfl | rfl := hi
    case inl =>
      obtain ⟨_, _, _, _, _, rfl⟩ := ih hrest (t := t.complete) h
      exact ⟨_, _, _, _, _, rfl⟩
    case inr =>
      obtain ⟨_, _, _, _, _, rfl⟩ := ih hrest (t := State.complete { t with err := false, overrun := false }) h
      exact ⟨_, _, _, _, _, rfl⟩

/-! ### DECODE of the artifact (R210) -/

/-- What the payload loop sees of a state: the parameters, the tree and the table's state. -/
structure State.SameDecoder (s u : State) : Prop where
  params : u.params = s.params
  tableState : u.tableState = s.tableState
  leaves : u.leaves = s.leaves
  root : u.root = s.root
  node : u.mem.node = s.mem.node

theorem State.SameDecoder.decodeScan_eq {s u : State} (h : s.SameDecoder u) (p : Bits) (j : Nat) (cur : NodeIdx)
    (out : List Symbol) : decodeScan u p j cur out = decodeScan s p j cur out := by
  have hnode := State.nodeAt_congr h.node
  have hchild : u.childOf = s.childOf := by funext cur b; rw [State.childOf, hnode]; rfl
  have hemit : emitSymbol u = emitSymbol s := by funext out sym j; rw [emitSymbol, h.params]; rfl
  induction p generalizing j cur out with
  | nil => rfl
  | cons b p ih => simp only [decodeScan, hemit, hchild, h.tableState, h.leaves, h.root, hnode, ih]

theorem State.dtextAt_of_read {s : State} {i : Nat} {v : Symbol} (h : s.mem.dtext.read i = some v) :
    s.dtextAt i = v := by
  simp [State.dtextAt, h]

/-- The loop reads the codes of the text as its symbols and ends at the root. -/
theorem decodeScan_rawBitsOf {s : State} (hinv : s.Inv) (htable : s.tableState ≠ .none)
    (hcodes : ∀ i < s.textLen.toNat, s.codeAt (s.textAt i).toNat ≠ [])
    (hcap : s.textLen.toNat ≤ s.params.dtextCap) :
    decodeScan s (s.rawBitsOf s.textLen.toNat) 0 s.root [] =
      .ok (s.root, s.textSymbols.map (BitVec.ofNat 10)) := by
  have hsyms : ∀ x ∈ s.textSymbols, x < s.params.nsym ∧ s.codeAt x ≠ [] := by
    intro x hx
    obtain ⟨i, hi, rfl⟩ := List.mem_map.1 hx
    exact ⟨State.textAt_lt hinv.entriesFit i, hcodes i (List.mem_range.1 hi)⟩
  have hscan := decodeScan_flatMap_codeAt hinv htable hsyms [] 0 (out := [])
    (by rwa [List.length_nil, Nat.zero_add, State.length_textSymbols])
  rw [List.append_nil, List.nil_append, ← State.rawBitsOf_textLen] at hscan
  exact hscan

/-- Settles O41: DECODE finds the artifact of the text and the tree ENCODE's codes come from, and its payload loop reads
the codes back as the symbols. -/
theorem encodeDecodeRoundTrip : Obligations.EncodeDecodeRoundTrip := by
  intro s t u between hinv hencode hres hbetween hu hcap
  obtain ⟨htable, rfl, hcodes, hfit⟩ := exec_encode_success hencode hres
  have hlen := pack_rawBitsOf_length_le hinv.legal hfit
  have hscan := decodeScan_rawBitsOf hinv htable hcodes hcap
  generalize s.rawBitsOf s.textLen.toNat = raw at hlen hscan hu
  obtain ⟨_, _, _, _, _, hu⟩ := eq_of_execAll_nop_clrerr hbetween hu
  have hsame : s.SameDecoder u := by rw [hu]; exact ⟨rfl, rfl, rfl, rfl, rfl⟩
  have hart : u.mem.art = s.mem.art.writeList 0 (pack raw) := by rw [hu]; rfl
  have hartLen : u.artLen.toNat = (pack raw).length := by
    rw [hu]
    have hbound := (Params.artCap_bounds_of_legal hinv.legal).2
    exact Nat.mod_eq_of_lt (by omega)
  have hunpack := unpackInvertsPack raw
  rw [← State.artBytes_of_writeList hart, ← hartLen] at hunpack
  rw [← hsame.decodeScan_eq, ← hsame.root] at hscan
  refine ⟨_, exec_decode_of_ok (hsame.tableState ▸ htable) (by rw [hsame.params, hartLen]; exact hlen)
    (decodeArtifact_of_scan hunpack hscan), rfl, ?_, fun i hi => State.dtextAt_of_read ?_⟩
  · simp [State.storeText]
  · simp only [State.complete_eq_finish, State.finish_mem, State.storeText_mem]
    rw [Table.read_writeList, if_pos (by simpa using hi), Nat.sub_zero, State.getElem?_map_ofNat_textSymbols hi]

end Sys2Proof.Machine
end

section
/-! PROOFS. DECODE beyond the codes it reads (spec/45_decoder.md R210 to R216): its failures, the symbol that does not
fit DTEXT, its frame, and the source's accumulator (R214), which cuts a payload into the same codes and the same rest. -/

namespace Sys2Proof.Machine

/-! ### The failures of DECODE (R210, R232) -/

section Failures

variable {s : State} {h : Byte} {payload : Bits} (hunpack : unpack (s.artBytes s.artLen.toNat) = .ok (h, payload))
include hunpack

theorem decodeArtifact_of_scan_error {f : Failure} (hscan : decodeScan s payload 0 s.root [] = .error f) :
    decodeArtifact s = .error f := by
  simp only [decodeArtifact, hunpack, hscan]

/-- A payload that ends inside a code is CORRUPT_MATCH (R213). -/
theorem decodeArtifact_of_residual {cur : NodeIdx} {out : List Symbol} (hL : 2 ≤ s.leafCount) (hcur : cur ≠ s.root)
    (hscan : decodeScan s payload 0 s.root [] = .ok (cur, out)) :
    decodeArtifact s = .error { code := .corruptMatch, info := residualInfo payload.length } := by
  simp only [decodeArtifact, hunpack, hscan]
  exact if_pos ⟨hL, hcur⟩

end Failures

theorem exec_decode_of_error {s : State} {f : Failure} (htable : s.tableState ≠ .none)
    (hlen : s.artLen.toNat ≤ s.params.artCap) (hart : decodeArtifact s = .error f) :
    exec .decode s = .next (s.decodeErrorEffects.raise f) := by
  have hexec : exec .decode s = execDecode s := rfl
  rw [hexec, execDecode, if_neg htable, if_neg hlen.not_gt, hart]

/-! ### The frame and the overflow (R215, R216) -/

/-- Settles O40, by the four things DECODE can do. -/
theorem decodeChangesOnlyItsOutputs : Obligations.DecodeChangesOnlyItsOutputs := by
  intro s t h
  obtain ⟨-, rfl⟩ | ⟨-, -, rfl⟩ | ⟨-, -, f, -, rfl⟩ | ⟨-, -, b, n, out, -, rfl⟩ := execDecode_cases h
  case inl => exact ⟨rfl, fun _ => ⟨rfl, rfl, rfl⟩⟩
  case inr.inl => exact ⟨rfl, fun _ => ⟨rfl, rfl, rfl⟩⟩
  case inr.inr.inl => exact ⟨rfl, fun _ => ⟨rfl, rfl, rfl⟩⟩
  case inr.inr.inr => exact ⟨rfl, fun hres => absurd rfl hres⟩

theorem emitSymbol_of_full {s : State} {out : List Symbol} (hout : out.length = s.params.dtextCap) (sym : Symbol)
    (j : Nat) : emitSymbol s out sym j = .error { code := .dtextOverflow, info := BitVec.ofNat 32 j } := by
  rw [emitSymbol, if_pos hout]

/-- Settles O38: the first DTEXT_CAP codes fill DTEXT, and the last bit of the next code asks for one more entry. -/
theorem decodeOverflow : Obligations.DecodeOverflow := by
  intro s h syms rest hinv hready hlen hsyms hcount hunpack
  have htable : s.tableState ≠ .none := by rw [hready]; nofun
  obtain ⟨pre, x, rfl⟩ := (List.eq_nil_or_concat' syms).resolve_left (by rintro rfl; cases hcount)
  obtain ⟨hpre, hlast⟩ := List.forall_mem_append.1 hsyms
  obtain ⟨hx, hcode⟩ := hlast x (List.mem_singleton_self x)
  rw [List.length_append, List.length_singleton, Nat.add_right_cancel_iff] at hcount
  rw [List.flatMap_append, List.flatMap_singleton] at hunpack ⊢
  have hpos : 0 < s.clen x := List.length_pos_iff.2 hcode
  have hindex : (pre.flatMap s.codeAt ++ s.codeAt x).length - 1 =
      (pre.flatMap s.codeAt).length + (s.clen x - 1) := by
    rw [List.length_append, ← State.clen, Nat.add_sub_assoc hpos]
  have hscan : decodeScan s (pre.flatMap s.codeAt ++ s.codeAt x ++ rest) 0 s.root [] = .error
      { code := .dtextOverflow, info := BitVec.ofNat 32 ((pre.flatMap s.codeAt ++ s.codeAt x).length - 1) } := by
    rw [List.append_assoc, decodeScan_flatMap_codeAt hinv htable hpre _ 0 (by rw [List.length_nil]; omega),
      decodeScan_codeAt hinv htable hx hcode,
      emitSymbol_of_full (by rw [List.nil_append, List.length_map, hcount]), hindex, Nat.zero_add]
    rfl
  exact ⟨_, exec_decode_of_error htable hlen (decodeArtifact_of_scan_error hunpack hscan), rfl, rfl⟩

/-! ### The source's accumulator (R214) -/

theorem State.of_symOf_eq_some {s : State} {c : Bits} {i : Nat} (h : s.symOf c = some i) :
    i < s.params.nsym ∧ s.codeAt i ≠ [] ∧ s.codeAt i = c := by
  have hfound := List.find?_some h
  rw [Bool.and_eq_true, bne_iff_ne, beq_iff_eq] at hfound
  exact ⟨List.mem_range.1 (List.mem_of_find?_eq_some h), mt List.length_eq_zero_iff.2 hfound.1, hfound.2⟩

/-- No beginning of `r` is a code: what the accumulator can hold. -/
def State.Unmatched (s : State) (r : Bits) : Prop := ∀ p, p <+: r → s.symOf p = none

theorem State.unmatched_nil (s : State) : s.Unmatched [] := by
  intro p hp
  obtain rfl := List.prefix_nil.1 hp
  refine Option.eq_none_iff_forall_ne_some.2 fun i hi => ?_
  obtain ⟨-, hne, hcode⟩ := State.of_symOf_eq_some hi
  exact hne hcode

theorem State.unmatched_concat {s : State} {r : Bits} {b : Bool} :
    s.Unmatched (r ++ [b]) ↔ s.Unmatched r ∧ s.symOf (r ++ [b]) = none := by
  simp only [State.Unmatched, List.prefix_concat_iff, forall_eq_or_imp, and_comm]

/-- The accumulator cuts its bits into the codes of the symbols it emits and a residual. -/
theorem State.exists_accumulate_eq {s : State} (payload : Bits) {acc : Bits} (hacc : s.Unmatched acc)
    (out : List Nat) : ∃ syms r, s.accumulate payload acc out = (r, out ++ syms) ∧
      acc ++ payload = syms.flatMap s.codeAt ++ r ∧
      (∀ x ∈ syms, x < s.params.nsym ∧ s.codeAt x ≠ []) ∧ s.Unmatched r := by
  induction payload generalizing acc out with
  | nil => exact ⟨[], acc, by rw [List.append_nil]; rfl, List.append_nil acc, nofun, hacc⟩
  | cons b payload ih =>
    rw [State.accumulate]
    cases hsym : s.symOf (acc ++ [b]) with
    | some i =>
      obtain ⟨hi, hne, hcode⟩ := State.of_symOf_eq_some hsym
      obtain ⟨syms, r, heq, hsplit, hsyms, hr⟩ := ih s.unmatched_nil (out ++ [i])
      refine ⟨i :: syms, r, heq.trans (congrArg (Prod.mk r) (List.append_cons ..).symm), ?_,
        List.forall_mem_cons.2 ⟨⟨hi, hne⟩, hsyms⟩, hr⟩
      rw [List.flatMap_cons, hcode, List.append_assoc, List.append_assoc, ← hsplit]
      rfl
    | none =>
      obtain ⟨syms, r, heq, hsplit, hrest⟩ := ih (State.unmatched_concat.2 ⟨hacc, hsym⟩) out
      exact ⟨syms, r, heq, (List.append_cons ..).trans hsplit, hrest⟩

/-! ### A residual in the payload loop (R213) -/

theorem decodeScan_cons_of_empty {s : State} (hempty : s.tableState = .empty) (b : Bool) (rest : Bits) (j : Nat)
    (cur : NodeIdx) (out : List Symbol) :
    decodeScan s (b :: rest) j cur out = .error { code := .corruptMatch, info := BitVec.ofNat 32 j } := by
  rw [decodeScan, if_pos hempty]

section Residual

variable {s : State} (hinv : s.Inv) (hready : s.tableState = .ready)
include hready

theorem decodeScan_cons_true_of_one_leaf (hL : s.leafCount = 1) (rest : Bits) (j : Nat) (cur : NodeIdx)
    (out : List Symbol) :
    decodeScan s (true :: rest) j cur out = .error { code := .corruptMatch, info := BitVec.ofNat 32 j } := by
  rw [decodeScan, if_neg (by rw [hready]; nofun), if_pos (State.leafCount_eq_one_iff.1 hL), if_pos rfl]

include hinv

/-- With one leaf the code "0" is matched at once, so a residual begins with a 1 bit. -/
theorem State.Unmatched.head_eq_true {b : Bool} {r : Bits} (hr : s.Unmatched (b :: r)) (hL : s.leafCount = 1) :
    b = true := by
  refine Bool.eq_true_of_not_eq_false ?_
  rintro rfl
  have hsym := ((hinv.codesAreTreePaths hready).symOf_eq_some_iff_of_one_leaf (hinv.builtShape hready) hL).2
    ⟨rfl, rfl⟩
  rw [hr [false] ⟨r, rfl⟩] at hsym
  cases hsym

/-- With two leaves or more, a residual is a path that has not reached a leaf. -/
theorem State.Unmatched.exists_walk {r : Bits} (hr : s.Unmatched r) (hL : 2 ≤ s.leafCount) :
    ∃ n, s.walk s.root.toNat r = some n ∧ s.isLeafAt n = false := by
  have hshape := hinv.builtShape hready
  induction r using List.reverseRecOn with
  | nil =>
    have hroot := hshape.root_eq
    exact ⟨s.root.toNat, rfl, hshape.isLeafAt_of_isInternal ⟨by omega, by omega⟩⟩
  | append_singleton r b ih =>
    obtain ⟨hr, hnone⟩ := State.unmatched_concat.1 hr
    obtain ⟨m, hm, hmleaf⟩ := ih hr
    have hwalk : s.walk s.root.toNat (r ++ [b]) = some (s.childAt m b) :=
      State.walk_concat_eq_some.2 ⟨m, hm, hmleaf, rfl⟩
    refine ⟨s.childAt m b, hwalk, Bool.eq_false_iff.2 fun hleaf => ?_⟩
    have hsym := ((hinv.codesAreTreePaths hready).symOf_eq_some_iff_walk hshape hL).2
      ⟨_, (hshape.isLeafAt_iff (hshape.lt_of_walk hwalk)).1 hleaf, rfl, hwalk⟩
    rw [hnone] at hsym
    cases hsym

/-- A path below the root leads to another entry than the root. -/
theorem State.Inv.ofNat_ne_root_of_walk {r : Bits} {n : Nat} (hne : r ≠ [])
    (hwalk : s.walk s.root.toNat r = some n) : BitVec.ofNat 11 n ≠ s.root := by
  have hshape := hinv.builtShape hready
  have hlt := hshape.lt_of_walk hwalk
  have hle := hshape.leafCount_le_nsym.trans (Params.nsym_le_of_legal hinv.legal)
  intro hroot
  have hn : s.root.toNat = n := by
    rw [← hroot, BitVec.toNat_ofNat, Nat.mod_eq_of_lt (by omega)]
  exact hne (hshape.walk_inj hwalk (congrArg some hn))

end Residual

/-- The payload loop stops at a residual as at a dead end, or ends below the root. -/
theorem decodeScan_of_unmatched {s : State} (hinv : s.Inv) (htable : s.tableState ≠ .none) {r : Bits}
    (hr : s.Unmatched r) (hne : r ≠ []) (j : Nat) (out : List Symbol) :
    (∃ info, decodeScan s r j s.root out = .error { code := .corruptMatch, info := info }) ∨
    (2 ≤ s.leafCount ∧ ∃ cur, cur ≠ s.root ∧ decodeScan s r j s.root out = .ok (cur, out)) := by
  obtain ⟨b, rest, rfl⟩ := List.exists_cons_of_ne_nil hne
  cases hstate : s.tableState with
  | none => exact absurd hstate htable
  | empty => exact .inl ⟨_, decodeScan_cons_of_empty hstate b rest j s.root out⟩
  | ready =>
    by_cases hL : s.leafCount = 1
    case pos =>
      obtain rfl := hr.head_eq_true hinv hstate hL
      exact .inl ⟨_, decodeScan_cons_true_of_one_leaf hstate hL rest j s.root out⟩
    case neg =>
      have hpos := (hinv.builtShape hstate).one_le_leafCount
      have hL2 : 2 ≤ s.leafCount := by omega
      obtain ⟨n, hwalk, hleaf⟩ := hr.exists_walk hinv hstate hL2
      have hscan := decodeScan_append_of_walk hstate hL hwalk hleaf [] j out
      rw [List.append_nil] at hscan
      exact .inr ⟨hL2, _, hinv.ofNat_ne_root_of_walk hstate hne hwalk, hscan⟩

/-! ### DECODE on codes and a residual (R214) -/

section CodesAndResidual

variable {s : State} {h : Byte} {syms : List Nat} (hinv : s.Inv) (htable : s.tableState ≠ .none)
  (hsyms : ∀ x ∈ syms, x < s.params.nsym ∧ s.codeAt x ≠ []) (hcap : syms.length ≤ s.params.dtextCap)
include hinv htable hsyms hcap

theorem decodeScan_codes (r : Bits) : decodeScan s (syms.flatMap s.codeAt ++ r) 0 s.root [] =
    decodeScan s r (syms.flatMap s.codeAt).length s.root (syms.map (BitVec.ofNat 10)) := by
  rw [decodeScan_flatMap_codeAt hinv htable hsyms r 0 (by rwa [List.length_nil, Nat.zero_add]), Nat.zero_add,
    List.nil_append]

theorem decodeArtifact_of_codes
    (hunpack : unpack (s.artBytes s.artLen.toNat) = .ok (h, syms.flatMap s.codeAt)) :
    decodeArtifact s = .ok (h, (syms.flatMap s.codeAt).length, syms.map (BitVec.ofNat 10)) := by
  have hscan := decodeScan_codes hinv htable hsyms hcap []
  rw [List.append_nil] at hscan
  exact decodeArtifact_of_scan hunpack hscan

theorem decodeArtifact_of_unmatched {r : Bits} (hr : s.Unmatched r) (hne : r ≠ [])
    (hunpack : unpack (s.artBytes s.artLen.toNat) = .ok (h, syms.flatMap s.codeAt ++ r)) :
    ∃ info, decodeArtifact s = .error { code := .corruptMatch, info := info } := by
  have hscan := decodeScan_codes hinv htable hsyms hcap r
  obtain ⟨info, hrest⟩ | ⟨hL, cur, hcur, hrest⟩ := decodeScan_of_unmatched hinv htable hr hne
    (syms.flatMap s.codeAt).length (syms.map (BitVec.ofNat 10))
  case inl => exact ⟨info, decodeArtifact_of_scan_error hunpack (hscan.trans hrest)⟩
  case inr => exact ⟨_, decodeArtifact_of_residual hunpack hL hcur (hscan.trans hrest)⟩

end CodesAndResidual

theorem Params.dtextCap_le_of_legal {P : Params} (h : P.legal = true) : P.dtextCap ≤ 262144 := by
  simp only [Params.legal, Params.dtextCapOk, Bool.and_eq_true, decide_eq_true_eq] at h
  omega

theorem dtextAt_complete_storeText {s : State} {h : Byte} {n k : Nat} {out : List Symbol} (hk : k < out.length) :
    (s.storeText h n out).complete.dtextAt k = out[k] := by
  refine State.dtextAt_of_read ?_
  rw [State.complete_eq_finish, State.finish_mem, State.storeText_mem, Table.read_writeList,
    if_pos ⟨k.zero_le, by rwa [Nat.zero_add]⟩, Nat.sub_zero, List.getElem?_eq_getElem hk]

/-- Symbols of the alphabet that fit DTEXT are read back from it as they are. -/
theorem storeText_reads_symbols {s : State} (hP : s.params.legal = true) {syms : List Nat}
    (hsyms : ∀ x ∈ syms, x < s.params.nsym) (hcap : syms.length ≤ s.params.dtextCap) (h : Byte) (n : Nat) :
    (s.storeText h n (syms.map (BitVec.ofNat 10))).complete.dtextLen.toNat = syms.length ∧
    ∀ k < syms.length,
      ((s.storeText h n (syms.map (BitVec.ofNat 10))).complete.dtextAt k).toNat = syms.getD k 0 := by
  have hbound := hcap.trans (Params.dtextCap_le_of_legal hP)
  constructor
  · rw [State.complete_eq_finish, State.finish_dtextLen, State.storeText_dtextLen, List.length_map,
      BitVec.toNat_ofNat, Nat.mod_eq_of_lt (by omega)]
  · intro k hk
    have hx := (hsyms _ (List.getElem_mem hk)).trans_le (Params.nsym_le_of_legal hP)
    rw [dtextAt_complete_storeText (by rwa [List.length_map]), List.getElem_map, BitVec.toNat_ofNat,
      Nat.mod_eq_of_lt (by omega), List.getD_eq_getElem _ _ hk]

/-- Settles O39: the accumulator cuts the payload into codes and a residual; the tree walk reads the codes as the same
symbols, and fails exactly when there is a residual. -/
theorem decodeMatchesAccumulator : Obligations.DecodeMatchesAccumulator := by
  intro s h payload hinv htable hlen hunpack hcap
  obtain ⟨syms, r, heq, hsplit, hsyms, hr⟩ := State.exists_accumulate_eq payload s.unmatched_nil []
  rw [List.nil_append] at heq hsplit
  rw [heq] at hcap ⊢
  rw [hsplit] at hunpack
  constructor
  · rintro rfl
    rw [List.append_nil] at hunpack
    obtain ⟨hcount, hread⟩ := storeText_reads_symbols hinv.legal (fun x hx => (hsyms x hx).1) hcap h
      (syms.flatMap s.codeAt).length
    exact ⟨_, exec_decode_of_ok htable hlen (decodeArtifact_of_codes hinv htable hsyms hcap hunpack), rfl, hcount,
      fun k hk => hread k (hcount ▸ hk)⟩
  · intro hne
    obtain ⟨info, hart⟩ := decodeArtifact_of_unmatched hinv htable hsyms hcap hr hne hunpack
    exact ⟨_, exec_decode_of_error htable hlen hart, rfl⟩

end Sys2Proof.Machine
end

section
/-! PROOFS. The shape of BUILD_TREE's tree (spec/41_tree_builder.md R134, R46): the leaves stand in symbol order, every
entry behind them is internal, and the one entry left in the queue is the root, which carries the whole weight.

`Elab.async false` before a short lemma, here and in the sections below, only makes the elaborator wait there for the
proofs above it: without it too many proofs are open at once for the memory one compile may take. -/

namespace Sys2Proof.Machine

/-! ### The leaves (R130) -/

/-- A leaf of symbol `i`. -/
theorem State.leafOf_eq_some {s : State} {i : Nat} {n : Node} (h : s.leafOf i = some n) :
    nodeIsLeaf n = true ∧ nodeSymbol n = BitVec.ofNat 10 i := by
  by_cases hfreq : s.freqAt i = 0
  · rw [State.leafOf_of_freqAt_eq_zero hfreq] at h
    cases h
  · rw [State.leafOf_of_freqAt_ne_zero hfreq] at h
    cases h
    exact ⟨rfl, rfl⟩

set_option Elab.async false in
theorem Params.toNat_ofNat_symbol {P : Params} (hP : P.legal = true) {i : Nat} (hi : i < P.nsym) :
    (BitVec.ofNat 10 i).toNat = i :=
  Nat.mod_eq_of_lt (hi.trans_le (Params.nsym_le_of_legal hP))

theorem State.leafNodes_isLeaf {s : State} (hP : s.params.legal = true) {n : Node} (hn : n ∈ s.leafNodes) :
    nodeIsLeaf n = true ∧ (nodeSymbol n).toNat < s.params.nsym := by
  obtain ⟨i, hi, hleaf⟩ := List.mem_filterMap.1 (s.leafNodes_eq_filterMap ▸ hn)
  obtain ⟨hkind, hsym⟩ := State.leafOf_eq_some hleaf
  rw [hsym, Params.toNat_ofNat_symbol hP (List.mem_range.1 hi)]
  exact ⟨hkind, List.mem_range.1 hi⟩

/-- The leaves' symbols rise. -/
theorem State.leafNodes_pairwise {s : State} (hP : s.params.legal = true) :
    s.leafNodes.Pairwise fun a b => (nodeSymbol a).toNat < (nodeSymbol b).toNat := by
  rw [State.leafNodes_eq_filterMap, List.pairwise_filterMap]
  refine List.pairwise_lt_range.imp_of_mem fun {i j} hi hj hij a ha b hb => ?_
  rw [(State.leafOf_eq_some ha).2, (State.leafOf_eq_some hb).2,
    Params.toNat_ofNat_symbol hP (List.mem_range.1 hi), Params.toNat_ofNat_symbol hP (List.mem_range.1 hj)]
  exact hij

/-! ### The entries behind the leaves (R132) -/

theorem mergeLoop_append_internal (fuel : Nat) (pq : List Key) (nodes : List Node) :
    ∃ extra, mergeLoop fuel pq nodes = nodes ++ extra ∧ ∀ n ∈ extra, nodeIsLeaf n = false := by
  induction fuel generalizing pq nodes with
  | zero => exact ⟨[], (List.append_nil nodes).symm, nofun⟩
  | succ fuel ih =>
    obtain hstop | ⟨a, b, pq1, pq2, -, -, hpass⟩ := mergeLoop_succ_cases fuel pq nodes
    · exact ⟨[], hstop.trans (List.append_nil nodes).symm, nofun⟩
    · exact (ih _ _).elim fun extra ⟨happ, hinner⟩ =>
        ⟨_ :: extra, hpass.trans (happ.trans (List.append_assoc ..)), List.forall_mem_cons.2 ⟨rfl, hinner⟩⟩

theorem nodeIsLeaf_buildNodes {leaves : List Node} {n : Nat} (hn : n < (buildNodes leaves).length)
    (hge : leaves.length ≤ n) : nodeIsLeaf (buildNodes leaves)[n] = false := by
  obtain ⟨extra, happ, hinner⟩ := mergeLoop_append_internal leaves.length (leafKeys leaves) leaves
  have hget : (buildNodes leaves)[n]? = extra[n - leaves.length]? := by
    rw [buildNodes, happ, List.getElem?_append_right hge]
  exact hinner _ (List.mem_of_getElem? (hget.symm.trans (List.getElem?_eq_getElem hn)))

/-! ### The registers (R133) -/

set_option Elab.async false in
theorem State.length_leafNodes_le_of_legal {s : State} (hP : s.params.legal = true) : s.leafNodes.length ≤ 1024 :=
  Nat.le_trans s.length_leafNodes_le (Params.nsym_le_of_legal hP)

section Registers

variable {s t : State} (hP : s.params.legal = true) (h : exec .buildTree s = .next t) (hpos : s.leafNodes.length ≠ 0)
include hP h hpos

theorem toNat_nodeCount_of_buildTree : t.nodeCount.toNat = 2 * s.leafNodes.length - 1 := by
  have := State.length_leafNodes_le_of_legal hP
  rw [nodeCount_of_buildTree h, if_neg hpos, BitVec.toNat_ofNat, Nat.mod_eq_of_lt (by omega)]

theorem toNat_root_of_buildTree : t.root.toNat = 2 * s.leafNodes.length - 2 := by
  have := State.length_leafNodes_le_of_legal hP
  rw [root_of_buildTree h, if_neg hpos, BitVec.toNat_ofNat, Nat.mod_eq_of_lt (by omega)]

end Registers

/-! ### The end of the merge loop (R134) -/

section Root

variable {s : State} {W : Nat} {pq : List Key} (inv : QueueInv s W pq (2 * s.leafCount - 1)) (hpos : 1 ≤ s.leafCount)
include inv hpos

/-- No entry takes the last one: children come before their parent. -/
theorem QueueInv.root_queued : s.queuedAt (2 * s.leafCount - 1) (2 * s.leafCount - 2) := by
  refine ⟨by omega, fun k hk hLk => State.isChildOf_eq_false.2 ?_⟩
  obtain ⟨hleft, hright⟩ := (inv.merged k hk hLk).children_lt
  omega

/-- `2L - 1` entries leave one key in the queue, and it is the last entry's. -/
theorem QueueInv.pq_eq_root : pq = [s.keyAt (2 * s.leafCount - 2)] := by
  have hlen := inv.length_add
  obtain ⟨k, rfl⟩ := List.length_eq_one_iff.1 (show pq.length = 1 by omega)
  rw [List.mem_singleton.1 (inv.keyAt_mem.2 (inv.root_queued hpos))]

theorem QueueInv.weightAt_root : s.weightAt (2 * s.leafCount - 2) = W := by
  have hsum := inv.sum_eq
  rw [inv.pq_eq_root hpos] at hsum
  rwa [List.map_singleton, List.sum_singleton, State.keyAt_weight_toNat] at hsum

/-- Every other entry has been taken out of the queue. -/
theorem QueueInv.exists_parent {m : Nat} (hm : m < 2 * s.leafCount - 2) :
    ∃ k < 2 * s.leafCount - 1, s.leafCount ≤ k ∧ s.isChildOf m k = true := by
  refine Classical.byContradiction fun hno => ?_
  have hqueued : s.queuedAt (2 * s.leafCount - 1) m :=
    ⟨by omega, fun k hk hLk => Bool.eq_false_iff.2 fun hchild => hno ⟨k, hk, hLk, hchild⟩⟩
  have hmem := inv.keyAt_mem.2 hqueued
  rw [inv.pq_eq_root hpos, List.mem_singleton, State.keyAt_inj] at hmem
  exact hm.ne hmem

omit hpos in
/-- A merge takes queued entries only, so no entry is taken twice. -/
theorem QueueInv.not_isChildOf_of_lt {m j k : Nat} (hjk : j < k) (hk : k < 2 * s.leafCount - 1)
    (hj : s.leafCount ≤ j) (hchild : s.isChildOf m k = true) : s.isChildOf m j = false := by
  obtain ⟨-, ⟨-, hleft⟩, ⟨-, hright⟩, -⟩ := inv.merged k hk (hj.trans hjk.le)
  obtain ⟨b, rfl⟩ := State.isChildOf_iff_exists_childAt.1 hchild
  cases b
  · exact hleft j hjk hj
  · exact hright j hjk hj

end Root

/-- A list of numbers below `n` of which exactly one, `k`, is kept. -/
theorem length_filter_range_eq_one {n k : Nat} {p : Nat → Bool} (hk : k < n) (hp : p k = true)
    (huniq : ∀ j < n, p j = true → j = k) : ((List.range n).filter p).length = 1 := by
  have hperm : ((List.range n).filter p).Perm [k] := by
    refine (List.perm_ext_iff_of_nodup (List.nodup_range.filter p) (List.nodup_singleton k)).2 fun j => ?_
    rw [List.mem_filter, List.mem_range, List.mem_singleton]
    exact ⟨fun ⟨hj, hpj⟩ => huniq j hj hpj, fun hjk => hjk ▸ ⟨hk, hp⟩⟩
  exact hperm.length_eq

theorem QueueInv.length_parents {s : State} {W : Nat} {pq : List Key} (inv : QueueInv s W pq (2 * s.leafCount - 1))
    {m : Nat} (hm : m < 2 * s.leafCount - 2) :
    ((List.range (2 * s.leafCount - 1)).filter fun n =>
      decide (s.leafCount ≤ n) && s.isChildOf m n).length = 1 := by
  obtain ⟨k, hk, hLk, hchild⟩ := inv.exists_parent (by omega) hm
  refine length_filter_range_eq_one hk (by rw [decide_eq_true hLk, hchild]; rfl) fun j hj hp => ?_
  obtain ⟨hLj, hchild'⟩ := Bool.and_eq_true_iff.1 hp
  have hLj := of_decide_eq_true hLj
  obtain hlt | heq | hlt := Nat.lt_trichotomy j k
  · exact absurd hchild' (Bool.eq_false_iff.1 (inv.not_isChildOf_of_lt hlt hk hLj hchild))
  · exact heq
  · exact absurd hchild (Bool.eq_false_iff.1 (inv.not_isChildOf_of_lt hlt hj hLk hchild'))

/-! ### The shape (R46) -/

section Shape

variable {s t : State} (hP : s.params.legal = true) (h : exec .buildTree s = .next t)
include h

theorem nodeAt_leaf_of_buildTree {n : Nat} (hn : n < s.leafNodes.length) : t.nodeAt n = s.leafNodes[n] := by
  rw [nodeAt_of_buildTree h (by rw [length_buildNodes]; omega), ← Option.some.injEq, ← List.getElem?_eq_getElem,
    ← List.getElem?_eq_getElem, buildNodes_getElem?_of_lt hn]

include hP

set_option Elab.async false in
theorem exists_queueInv_of_buildTree (hfit : s.EntriesFit) :
    ∃ pq, QueueInv t s.freqSum pq (2 * t.leafCount - 1) := by
  obtain ⟨pq, inv⟩ := exists_queueInv_buildNodes hP hfit h
  rw [length_buildNodes, ← leafCount_of_buildTree hP h] at inv
  exact ⟨pq, inv⟩

theorem builtShape_of_buildTree (hfit : s.EntriesFit) (hpos : s.leafNodes.length ≠ 0) : t.BuiltShape := by
  obtain ⟨pq, inv⟩ := exists_queueInv_of_buildTree hP h hfit
  have hL := leafCount_of_buildTree hP h
  have hleaf : ∀ n (hn : n < t.leafCount), t.nodeAt n = s.leafNodes[n] :=
    fun n hn => nodeAt_leaf_of_buildTree h (hL ▸ hn)
  refine ⟨by omega, ?le, ?nodeCount, ?root, fun n hn => ?leaf, fun n hn m hm => ?rise, fun n hn hLn => ?inner,
    fun m hm => inv.length_parents hm⟩
  case le => rw [hL, params_of_buildTree h]; exact s.length_leafNodes_le
  case nodeCount => rw [hL]; exact toNat_nodeCount_of_buildTree hP h hpos
  case root => rw [hL]; exact toNat_root_of_buildTree hP h hpos
  case leaf =>
    rw [State.isLeafAt, State.symbolAt, hleaf n hn, params_of_buildTree h]
    exact State.leafNodes_isLeaf hP (List.getElem_mem _)
  case rise =>
    rw [State.symbolAt, State.symbolAt, hleaf n hn, hleaf m (hm.trans hn)]
    exact List.pairwise_iff_getElem.1 (State.leafNodes_pairwise hP) m n _ _ hm
  case inner =>
    have hmerge := inv.merged n hn hLn
    obtain ⟨hleft, hright⟩ := hmerge.children_lt
    obtain ⟨hweight, -⟩ := hmerge
    refine ⟨?_, hleft, hright, hweight⟩
    rw [State.isLeafAt, nodeAt_of_buildTree h (by rw [length_buildNodes]; omega)]
    exact nodeIsLeaf_buildNodes _ (by omega)

end Shape

/-! ### The obligation -/

/-- Settles O12, by the end of the merge loop: its invariant holds of all `2L - 1` entries, and the queue is left with
the root, whose weight is the sum of all. -/
theorem buildTreeGivesTreeShape : Obligations.BuildTreeGivesTreeShape := by
  intro s hP hfit hcount
  rw [← State.length_leafNodes] at hcount ⊢
  have hpos : s.leafNodes.length ≠ 0 := by omega
  have h := exec_buildTree s
  have hL := leafCount_of_buildTree hP h
  obtain ⟨pq, inv⟩ := exists_queueInv_of_buildTree hP h hfit
  refine ⟨_, h, (treeState_of_buildTree h).trans (if_neg hpos), hL, builtShape_of_buildTree hP h hfit hpos, ?_⟩
  rw [toNat_root_of_buildTree hP h hpos, ← hL]
  exact inv.weightAt_root (by omega)

end Sys2Proof.Machine
end

section
/-! PROOFS. DECODE (spec/45_decoder.md R210 to R216) on codes, on dead ends, on a payload that ends inside a code, and
on an artifact it does not read. -/

namespace Sys2Proof.Machine

/-! ### The payload is codes (R210, R212) -/

/-- Settles O35: the payload loop reads the codes as their symbols and ends at the root, and `storeText` writes them. -/
theorem decodeReadsCodes : Obligations.DecodeReadsCodes := by
  intro s h syms hinv htable hlen hsyms hcap hunpack
  have hart := decodeArtifact_of_codes hinv htable hsyms hcap hunpack
  refine ⟨s.mem.dtext.writeList 0 (syms.map (BitVec.ofNat 10)), ?next, Table.writeList_epoch _ _ _, fun k hk => ?text,
    fun k hk => ?rest⟩
  case next => rw [exec_decode_of_ok htable hlen hart, State.complete_eq, State.storeText, List.length_map]
  case text =>
    rw [Table.read_writeList, List.length_map, if_pos (by omega), Nat.sub_zero, List.getElem?_map,
      List.getElem?_eq_getElem hk, List.getD_eq_getElem _ _ hk]
    rfl
  case rest => rw [Table.read_writeList, List.length_map, if_neg (by omega)]

/-! ### Before the payload (R232) -/

section Early

variable {s : State}

set_option Elab.async false in
theorem exec_decode_of_no_table (h : s.tableState = .none) :
    exec .decode s = .next (s.decodeErrorEffects.raise { code := .noTable, info := 0 }) :=
  congrArg Host.Outcome.next (if_pos h)

set_option Elab.async false in
theorem exec_decode_of_long (htable : s.tableState ≠ .none) (hlen : s.params.artCap < s.artLen.toNat) :
    exec .decode s = .next (s.decodeErrorEffects.raise { code := .badLen, info := s.artLen }) :=
  congrArg Host.Outcome.next ((if_neg htable).trans (if_pos hlen))

theorem decodeArtifact_of_unpack_error {f : Failure} (hunpack : unpack (s.artBytes s.artLen.toNat) = .error f) :
    decodeArtifact s = .error f := by
  rw [decodeArtifact, hunpack]

end Early

/-- Settles O34: each check has one failure, and all have the same error effects. -/
theorem decodeEarlyFailures : Obligations.DecodeEarlyFailures := by
  intro s
  refine ⟨Table.unwritten s.draws, s.draws + 1, fun htable => ?noTable, fun htable hlen => ?badLen,
    fun f htable hlen hunpack => ?header⟩
  case noTable => rw [exec_decode_of_no_table htable, State.raise_eq]; rfl
  case badLen => rw [exec_decode_of_long htable hlen, State.raise_eq]; rfl
  case header =>
    rw [exec_decode_of_error htable hlen (decodeArtifact_of_unpack_error hunpack), State.raise_eq,
      unpack_error_code hunpack]
    rfl

/-! ### Dead ends (R213) -/

/-- Each 0 bit emits the one leaf's symbol, as long as DTEXT has room. -/
theorem decodeScan_replicate_of_one_leaf {s : State} (hready : s.tableState = .ready) (hL : s.leafCount = 1) (k : Nat)
    (rest : Bits) (j : Nat) (cur : NodeIdx) {out : List Symbol} (hcap : out.length + k ≤ s.params.dtextCap) :
    decodeScan s (List.replicate k false ++ rest) j cur out =
      decodeScan s rest (j + k) cur (out ++ List.replicate k (nodeSymbol (s.nodeAt 0))) := by
  induction k generalizing j out with
  | zero => rw [List.replicate_zero, List.replicate_zero, List.append_nil]; rfl
  | succ k ih =>
    have hcap' : (out ++ [nodeSymbol (s.nodeAt 0)]).length + k ≤ s.params.dtextCap := by
      rw [List.length_append, List.length_singleton]; omega
    rw [List.replicate_succ, List.cons_append, decodeScan_cons_of_one_leaf hready hL, emitSymbol_of_lt (by omega)]
    refine (ih (j + 1) hcap').trans ?_
    rw [List.append_assoc, List.singleton_append, ← List.replicate_succ, Nat.add_right_comm, Nat.add_assoc]

/-- Settles O36: after the 0 bits a 1 bit has no child to go to, and without a tree no bit has. -/
theorem decodeDeadEnds : Obligations.DecodeDeadEnds := by
  intro s h rest hlen
  constructor
  · intro j hready hleaves hcap hunpack
    have hL := State.leafCount_eq_one_iff.2 hleaves
    have hscan := decodeScan_replicate_of_one_leaf hready hL j (true :: rest) 0 s.root (out := [])
      (by rwa [List.length_nil, Nat.zero_add])
    rw [decodeScan_cons_true_of_one_leaf hready hL, Nat.zero_add] at hscan
    exact ⟨_, exec_decode_of_error (by rw [hready]; nofun) hlen (decodeArtifact_of_scan_error hunpack hscan), rfl, rfl⟩
  · intro b hempty hunpack
    have hscan := decodeScan_cons_of_empty hempty b rest 0 s.root []
    exact ⟨_, exec_decode_of_error (by rw [hempty]; nofun) hlen (decodeArtifact_of_scan_error hunpack hscan), rfl, rfl⟩

/-! ### A payload that ends inside a code (R213) -/

/-- The payload's length fits ERR_INFO below bit 31. -/
theorem residualInfo_eq_ofNat {n : Nat} (hn : n < 2 ^ 31) : residualInfo n = BitVec.ofNat 32 (2 ^ 31 + n) := by
  apply BitVec.eq_of_toNat_eq
  have hor : 2 ^ 31 ||| n = 2 ^ 31 + n := by
    have hshift := Nat.shiftLeft_add_eq_or_of_lt hn 1
    rw [Nat.one_shiftLeft] at hshift
    exact hshift.symm
  rw [residualInfo, BitVec.toNat_or, BitVec.toNat_ofNat, BitVec.toNat_ofNat, BitVec.toNat_ofNat,
    Nat.mod_eq_of_lt (show n < 2 ^ 32 by omega), Nat.mod_eq_of_lt (show 2 ^ 31 + n < 2 ^ 32 by omega)]
  exact hor

/-- The payload is a part of the artifact's bits. -/
theorem length_payload_le {B : List Byte} {h : Byte} {payload : Bits} (hunpack : unpack B = .ok (h, payload)) :
    payload.length ≤ 8 * B.length := by
  cases B with
  | nil => cases hunpack
  | cons b rest =>
    unfold unpack at hunpack
    dsimp only at hunpack
    split at hunpack
    case isTrue => cases hunpack
    case isFalse =>
      split at hunpack
      case isTrue => cases hunpack
      case isFalse =>
        cases hunpack
        rw [List.length_take, List.length_drop, unpack8_length]
        omega

theorem State.length_artBytes (s : State) (m : Nat) : (s.artBytes m).length = m := by
  rw [State.artBytes, List.length_map, List.length_range]

/-- Settles O37: the codes bring the cursor back to the root, and the residual leaves it at an internal node below. -/
theorem decodeResidual : Obligations.DecodeResidual := by
  intro s h syms residual n hinv hready hL hlen hsyms hcap hne hwalk hleaf hunpack
  have htable : s.tableState ≠ .none := by rw [hready]; nofun
  have hscan := (decodeScan_codes hinv htable hsyms hcap residual).trans <| by
    rw [← List.append_nil residual, decodeScan_append_of_walk hready (by omega) hwalk hleaf]
  have hcur := hinv.ofNat_ne_root_of_walk hready hne hwalk
  have hbound : (syms.flatMap s.codeAt ++ residual).length < 2 ^ 31 := by
    have hpayload := length_payload_le hunpack
    rw [State.length_artBytes] at hpayload
    have := (Params.artCap_bounds_of_legal hinv.legal).2
    omega
  refine ⟨_, exec_decode_of_error htable hlen (decodeArtifact_of_residual hunpack hL hcur hscan), rfl, ?_⟩
  rw [← residualInfo_eq_ofNat hbound]
  rfl

end Sys2Proof.Machine
end

section
/-! PROOFS. The address map (spec/20_memory.md R62, R63): where each register and each entry is, and that an address
reaches it only there. -/

namespace Sys2Proof.Machine

/-! ### The places of the map -/

/-- The word address `x` is the place of a target: a register's offset, or the address of an entry below its window's
bound (R62, R63). An unmapped address is no target's place. -/
def Target.IsAt (P : Params) (x : Nat) : Target → Prop
  | .reg r => x = registerOffset r
  | .freq i => i < P.nsym ∧ x = 0x001000 + 4 * i
  | .node n w => n < P.nodeMax ∧ w < 4 ∧ x = 0x010000 + 16 * n + 4 * w
  | .code i k => i < P.nsym ∧ k < 64 ∧ x = 0x040000 + 256 * i + 4 * k
  | .text i => i < P.textCap ∧ x = 0x100000 + 4 * i
  | .art k => k < P.artCap ∧ x = 0x200000 + 4 * k
  | .dtext i => i < P.dtextCap ∧ x = 0x300000 + 4 * i
  | .unmapped => False

theorem Params.textCap_le_of_legal {P : Params} (h : P.legal = true) : P.textCap ≤ 262144 := by
  simp only [Params.legal, Params.textCapOk, Bool.and_eq_true, decide_eq_true_eq] at h
  omega

/-- The windows are large enough for the tables (R4, R62). -/
theorem Params.windowBounds_of_legal {P : Params} (h : P.legal = true) :
    P.nsym ≤ 1024 ∧ P.nodeMax ≤ 2047 ∧ P.textCap ≤ 262144 ∧ P.artCap ≤ 262144 ∧ P.dtextCap ≤ 262144 := by
  have hnsym := Params.nsym_le_of_legal h
  have hmax : P.nodeMax ≤ 2047 := by rw [Params.nodeMax]; omega
  obtain ⟨-, hart⟩ := Params.artCap_bounds_of_legal h
  exact ⟨hnsym, hmax, Params.textCap_le_of_legal h, hart, Params.dtextCap_le_of_legal h⟩

set_option Elab.async false in
theorem boundedTarget_of_lt {i bound : Nat} (h : i < bound) (t : Target) : boundedTarget i bound t = t := if_pos h

/-! ### The map, region by region (R62) -/

/-- A region that ends at or below `lo` holds no address from `lo` on. -/
theorem skip_region {α : Type} {lo bound x : Nat} {here beyond t : α} (h : lo ≤ x) (hbound : Nat.ble bound lo = true)
    (hbeyond : beyond = t) : (if x < bound then here else beyond) = t :=
  (if_neg (Nat.not_lt.2 (Nat.le_trans (Nat.le_of_ble_eq_true hbound) h))).trans hbeyond

section Regions

variable (P : Params) {x : Nat}

set_option Elab.async false in
theorem targetOfWord_of_register (hx : x < 0x001000) : targetOfWord P x = regTarget x := if_pos hx

theorem targetOfWord_of_freq (h : 0x001000 ≤ x) (hx : x < 0x002000) :
    targetOfWord P x = boundedTarget ((x - 0x001000) / 4) P.nsym (.freq ((x - 0x001000) / 4)) :=
  skip_region h rfl <| if_pos hx

theorem targetOfWord_of_gap_after_freq (h : 0x002000 ≤ x) (hx : x < 0x010000) : targetOfWord P x = .unmapped :=
  skip_region h rfl <| skip_region h rfl <| if_pos hx

theorem targetOfWord_of_node (h : 0x010000 ≤ x) (hx : x < 0x018000) :
    targetOfWord P x =
      boundedTarget ((x - 0x010000) / 16) P.nodeMax (.node ((x - 0x010000) / 16) ((x - 0x010000) % 16 / 4)) :=
  skip_region h rfl <| skip_region h rfl <| skip_region h rfl <| if_pos hx

theorem targetOfWord_of_gap_after_node (h : 0x018000 ≤ x) (hx : x < 0x040000) : targetOfWord P x = .unmapped :=
  skip_region h rfl <| skip_region h rfl <| skip_region h rfl <| skip_region h rfl <| if_pos hx

theorem targetOfWord_of_code (h : 0x040000 ≤ x) (hx : x < 0x080000) :
    targetOfWord P x =
      boundedTarget ((x - 0x040000) / 256) P.nsym (.code ((x - 0x040000) / 256) ((x - 0x040000) % 256 / 4)) :=
  skip_region h rfl <| skip_region h rfl <| skip_region h rfl <| skip_region h rfl <| skip_region h rfl <| if_pos hx

theorem targetOfWord_of_gap_after_code (h : 0x080000 ≤ x) (hx : x < 0x100000) : targetOfWord P x = .unmapped :=
  skip_region h rfl <| skip_region h rfl <| skip_region h rfl <| skip_region h rfl <| skip_region h rfl <|
  skip_region h rfl <| if_pos hx

theorem targetOfWord_of_text (h : 0x100000 ≤ x) (hx : x < 0x200000) :
    targetOfWord P x = boundedTarget ((x - 0x100000) / 4) P.textCap (.text ((x - 0x100000) / 4)) :=
  skip_region h rfl <| skip_region h rfl <| skip_region h rfl <| skip_region h rfl <| skip_region h rfl <|
  skip_region h rfl <| skip_region h rfl <| if_pos hx

theorem targetOfWord_of_art (h : 0x200000 ≤ x) (hx : x < 0x300000) :
    targetOfWord P x = boundedTarget ((x - 0x200000) / 4) P.artCap (.art ((x - 0x200000) / 4)) :=
  skip_region h rfl <| skip_region h rfl <| skip_region h rfl <| skip_region h rfl <| skip_region h rfl <|
  skip_region h rfl <| skip_region h rfl <| skip_region h rfl <| if_pos hx

theorem targetOfWord_of_dtext (h : 0x300000 ≤ x) (hx : x < 0x400000) :
    targetOfWord P x = boundedTarget ((x - 0x300000) / 4) P.dtextCap (.dtext ((x - 0x300000) / 4)) :=
  skip_region h rfl <| skip_region h rfl <| skip_region h rfl <| skip_region h rfl <| skip_region h rfl <|
  skip_region h rfl <| skip_region h rfl <| skip_region h rfl <| skip_region h rfl <| if_pos hx

theorem targetOfWord_of_gap_after_dtext (h : 0x400000 ≤ x) : targetOfWord P x = .unmapped :=
  skip_region h rfl <| skip_region h rfl <| skip_region h rfl <| skip_region h rfl <| skip_region h rfl <|
  skip_region h rfl <| skip_region h rfl <| skip_region h rfl <| skip_region h rfl <| skip_region h rfl <| rfl

end Regions

/-! ### An entry's address and its index -/

/-- The entry and the offset in it of an address in a window of entries of `size` bytes. -/
theorem entry_index_offset (base i : Nat) {size r : Nat} (hr : r < size) :
    (base + size * i + r - base) / size = i ∧ (base + size * i + r - base) % size = r := by
  rw [Nat.add_assoc, Nat.add_sub_cancel_left, Nat.mul_add_div (Nat.zero_lt_of_lt hr), Nat.mul_add_mod,
    Nat.div_eq_of_lt hr, Nat.mod_eq_of_lt hr]
  exact ⟨rfl, rfl⟩

theorem entry_index (base i : Nat) : (base + 4 * i - base) / 4 = i :=
  (entry_index_offset base i (size := 4) (r := 0) (by decide)).1

/-- A word address in a window is the address of its entry's word. -/
theorem eq_entry_address {base x size : Nat} (h : base ≤ x) (hx : x % 4 = 0) (hsize : 4 ∣ size)
    (hbase : base % 4 = 0 := by decide) : x = base + size * ((x - base) / size) + 4 * ((x - base) % size / 4) := by
  have hoffset : (x - base) % size % 4 = 0 := by
    rw [Nat.mod_mod_of_dvd _ hsize]
    exact Nat.sub_mod_eq_zero_of_mod_eq (hx.trans hbase.symm)
  rw [Nat.mul_div_cancel' (Nat.dvd_of_mod_eq_zero hoffset), Nat.add_assoc, Nat.div_add_mod, Nat.add_sub_cancel' h]

theorem eq_word_entry_address {base x : Nat} (h : base ≤ x) (hx : x % 4 = 0) (hbase : base % 4 = 0 := by decide) :
    x = base + 4 * ((x - base) / 4) := by
  have heq := eq_entry_address h hx (Nat.dvd_refl 4) hbase
  rwa [Nat.div_eq_of_lt (Nat.mod_lt _ (by decide)), Nat.mul_zero, Nat.add_zero] at heq

theorem word_lt {y size m : Nat} (hsize : size = 4 * m := by decide) (hm : 0 < m := by decide) : y % size / 4 < m :=
  Nat.div_lt_of_lt_mul (hsize ▸ Nat.mod_lt y (hsize ▸ Nat.mul_pos (by decide) hm))

/-- An offset in an entry is inside a window that has room for `cap` entries. -/
theorem entry_offset_lt {base size cap stop i n r : Nat} (hi : i < n) (hn : n ≤ cap) (hr : r < size)
    (hstop : Nat.ble (base + size * cap) stop = true) : base + size * i + r < stop :=
  calc base + size * i + r
    _ < base + size * i + size := Nat.add_lt_add_left hr _
    _ = base + size * (i + 1) := Nat.add_assoc ..
    _ ≤ base + size * cap := Nat.add_le_add_left (Nat.mul_le_mul_left size (Nat.le_trans hi hn)) _
    _ ≤ stop := Nat.le_of_ble_eq_true hstop

theorem entry_lt {base cap stop i n : Nat} (hi : i < n) (hn : n ≤ cap)
    (hstop : Nat.ble (base + 4 * cap) stop = true) : base + 4 * i < stop :=
  entry_offset_lt (r := 0) hi hn (Nat.succ_pos 3) hstop

theorem le_entry_offset (base a b : Nat) : base ≤ base + a + b :=
  Nat.le_trans (Nat.le_add_right _ _) (Nat.le_add_right _ _)

theorem word_offset_lt {w m : Nat} (hw : w < m) : 4 * w < 4 * m := Nat.mul_lt_mul_of_pos_left hw (Nat.succ_pos 3)

theorem entry_word_mod {base m : Nat} (n w : Nat) (hbase : base % 4 = 0) : (base + 4 * m * n + 4 * w) % 4 = 0 := by
  rw [Nat.add_mul_mod_self_left, Nat.mul_assoc, Nat.add_mul_mod_self_left, hbase]

/-! ### The map as a whole -/

/-- A target stands at its place. -/
theorem targetOfWord_of_isAt {P : Params} (hP : P.legal = true) {x : Nat} {t : Target} (h : t.IsAt P x) :
    targetOfWord P x = t := by
  obtain ⟨hnsym, hmax, htext, hart, hdtext⟩ := Params.windowBounds_of_legal hP
  cases t with
  | reg r =>
    obtain rfl := h
    rw [targetOfWord_of_register P (registerOffset_lt r), regTarget_eq_reg.2 rfl]
  | freq i =>
    obtain ⟨hi, rfl⟩ := h
    rw [targetOfWord_of_freq P (Nat.le_add_right _ _) (entry_lt hi hnsym rfl), entry_index, boundedTarget_of_lt hi]
  | node n w =>
    obtain ⟨hn, hw, rfl⟩ := h
    have hoffset := word_offset_lt hw
    obtain ⟨hindex, hword⟩ := entry_index_offset 0x010000 n hoffset
    rw [targetOfWord_of_node P (le_entry_offset _ _ _) (entry_offset_lt hn hmax hoffset rfl), hindex, hword,
      Nat.mul_div_cancel_left w (Nat.succ_pos 3), boundedTarget_of_lt hn]
  | code i k =>
    obtain ⟨hi, hk, rfl⟩ := h
    have hoffset := word_offset_lt hk
    obtain ⟨hindex, hword⟩ := entry_index_offset 0x040000 i hoffset
    rw [targetOfWord_of_code P (le_entry_offset _ _ _) (entry_offset_lt hi hnsym hoffset rfl), hindex, hword,
      Nat.mul_div_cancel_left k (Nat.succ_pos 3), boundedTarget_of_lt hi]
  | text i =>
    obtain ⟨hi, rfl⟩ := h
    rw [targetOfWord_of_text P (Nat.le_add_right _ _) (entry_lt hi htext rfl), entry_index, boundedTarget_of_lt hi]
  | art k =>
    obtain ⟨hk, rfl⟩ := h
    rw [targetOfWord_of_art P (Nat.le_add_right _ _) (entry_lt hk hart rfl), entry_index, boundedTarget_of_lt hk]
  | dtext i =>
    obtain ⟨hi, rfl⟩ := h
    rw [targetOfWord_of_dtext P (Nat.le_add_right _ _) (entry_lt hi hdtext rfl), entry_index, boundedTarget_of_lt hi]
  | unmapped => exact h.elim

theorem isAt_of_regTarget {P : Params} {x : Nat} {t : Target} (h : regTarget x = t) (ht : t ≠ .unmapped) :
    t.IsAt P x := by
  cases hreg : regAt x with
  | none => rw [regTarget, hreg] at h; exact absurd h.symm ht
  | some r =>
    have heq : regTarget x = .reg r := by rw [regTarget, hreg]
    rw [← h, heq]
    exact regTarget_eq_reg.1 heq

/-- A word address reaches a target only at its place, in each of the map's regions. -/
theorem isAt_of_targetOfWord {P : Params} {x : Nat} {t : Target} (hx : x % 4 = 0) (h : targetOfWord P x = t)
    (ht : t ≠ .unmapped) : t.IsAt P x := by
  obtain hlt | hge := Nat.lt_or_ge x 0x001000
  · exact isAt_of_regTarget ((targetOfWord_of_register P hlt).symm.trans h) ht
  obtain hlt | hge2 := Nat.lt_or_ge x 0x002000
  · obtain ⟨hi, rfl⟩ := boundedTarget_eq ((targetOfWord_of_freq P hge hlt).symm.trans h) ht
    exact ⟨hi, eq_word_entry_address hge hx⟩
  obtain hlt | hge := Nat.lt_or_ge x 0x010000
  · exact absurd (h.symm.trans (targetOfWord_of_gap_after_freq P hge2 hlt)) ht
  obtain hlt | hge2 := Nat.lt_or_ge x 0x018000
  · obtain ⟨hi, rfl⟩ := boundedTarget_eq ((targetOfWord_of_node P hge hlt).symm.trans h) ht
    exact ⟨hi, word_lt, eq_entry_address hge hx (by decide)⟩
  obtain hlt | hge := Nat.lt_or_ge x 0x040000
  · exact absurd (h.symm.trans (targetOfWord_of_gap_after_node P hge2 hlt)) ht
  obtain hlt | hge2 := Nat.lt_or_ge x 0x080000
  · obtain ⟨hi, rfl⟩ := boundedTarget_eq ((targetOfWord_of_code P hge hlt).symm.trans h) ht
    exact ⟨hi, word_lt, eq_entry_address hge hx (by decide)⟩
  obtain hlt | hge := Nat.lt_or_ge x 0x100000
  · exact absurd (h.symm.trans (targetOfWord_of_gap_after_code P hge2 hlt)) ht
  obtain hlt | hge2 := Nat.lt_or_ge x 0x200000
  · obtain ⟨hi, rfl⟩ := boundedTarget_eq ((targetOfWord_of_text P hge hlt).symm.trans h) ht
    exact ⟨hi, eq_word_entry_address hge hx⟩
  obtain hlt | hge := Nat.lt_or_ge x 0x300000
  · obtain ⟨hi, rfl⟩ := boundedTarget_eq ((targetOfWord_of_art P hge2 hlt).symm.trans h) ht
    exact ⟨hi, eq_word_entry_address hge2 hx⟩
  obtain hlt | hge2 := Nat.lt_or_ge x 0x400000
  · obtain ⟨hi, rfl⟩ := boundedTarget_eq ((targetOfWord_of_dtext P hge hlt).symm.trans h) ht
    exact ⟨hi, eq_word_entry_address hge hx⟩
  exact absurd (h.symm.trans (targetOfWord_of_gap_after_dtext P hge2)) ht

set_option Elab.async false in
theorem isAt_of_target {P : Params} {a : Addr} {t : Target} (h : target P a = t) (ht : t ≠ .unmapped) :
    t.IsAt P (wordAddr a) :=
  isAt_of_targetOfWord (Nat.mul_mod_left _ 4) h ht

/-- The map's entries and registers are at their places, and nothing else is anywhere. -/
theorem target_eq_unmapped_iff {P : Params} (hP : P.legal = true) {a : Addr} :
    target P a = .unmapped ↔ ∀ t : Target, ¬ t.IsAt P (wordAddr a) := by
  constructor
  · intro h t ht
    have htarget : target P a = t := targetOfWord_of_isAt hP ht
    rw [h] at htarget
    subst htarget
    exact ht
  · intro h
    exact Classical.byContradiction fun hne => h _ (isAt_of_target rfl hne)

theorem wordAddr_ofNat {x : Nat} (hx : x < 2 ^ 22) (hword : x % 4 = 0) : wordAddr (BitVec.ofNat 22 x) = x := by
  rw [wordAddr, BitVec.toNat_ofNat, Nat.mod_eq_of_lt hx, Nat.div_mul_cancel (Nat.dvd_of_mod_eq_zero hword)]

/-- Every place is a word address of 22 bits. -/
theorem Target.IsAt.word {P : Params} (hP : P.legal = true) {x : Nat} {t : Target} (h : t.IsAt P x) :
    x < 2 ^ 22 ∧ x % 4 = 0 := by
  obtain ⟨hnsym, hmax, htext, hart, hdtext⟩ := Params.windowBounds_of_legal hP
  cases t with
  | reg r => obtain rfl := h; exact ⟨Nat.lt_trans (registerOffset_lt r) (by decide), by cases r <;> rfl⟩
  | freq i => obtain ⟨hi, rfl⟩ := h; exact ⟨entry_lt hi hnsym rfl, Nat.add_mul_mod_self_left _ 4 i⟩
  | node n w =>
    obtain ⟨hn, hw, rfl⟩ := h
    exact ⟨entry_offset_lt hn hmax (word_offset_lt hw) rfl, entry_word_mod (m := 4) n w rfl⟩
  | code i k =>
    obtain ⟨hi, hk, rfl⟩ := h
    exact ⟨entry_offset_lt hi hnsym (word_offset_lt hk) rfl, entry_word_mod (m := 64) i k rfl⟩
  | text i => obtain ⟨hi, rfl⟩ := h; exact ⟨entry_lt hi htext rfl, Nat.add_mul_mod_self_left _ 4 i⟩
  | art k => obtain ⟨hk, rfl⟩ := h; exact ⟨entry_lt hk hart rfl, Nat.add_mul_mod_self_left _ 4 k⟩
  | dtext i => obtain ⟨hi, rfl⟩ := h; exact ⟨entry_lt hi hdtext rfl, Nat.add_mul_mod_self_left _ 4 i⟩
  | unmapped => exact h.elim

theorem target_ofNat_of_isAt {P : Params} (hP : P.legal = true) {x : Nat} {t : Target} (h : t.IsAt P x) :
    target P (BitVec.ofNat 22 x) = t := by
  obtain ⟨hx, hword⟩ := h.word hP
  rw [target, wordAddr_ofNat hx hword, targetOfWord_of_isAt hP h]

/-! ### The obligation -/

/-- Settles O48: a target is reached exactly at its place, and an address that is no target's place is unmapped. -/
theorem addressMap : Obligations.AddressMap := by
  intro P hP
  refine ⟨fun i hi => ?freq, fun n hn w hw => ?node, fun i hi k hk => ?code, fun i hi => ?text, fun k hk => ?art,
    fun i hi => ?dtext, fun a => ?back⟩
  case freq => exact target_ofNat_of_isAt hP ⟨hi, rfl⟩
  case node => exact target_ofNat_of_isAt hP ⟨hn, hw, rfl⟩
  case code => exact target_ofNat_of_isAt hP ⟨hi, hk, rfl⟩
  case text => exact target_ofNat_of_isAt hP ⟨hi, rfl⟩
  case art => exact target_ofNat_of_isAt hP ⟨hk, rfl⟩
  case dtext => exact target_ofNat_of_isAt hP ⟨hi, rfl⟩
  refine ⟨fun i h => isAt_of_target h nofun, fun n w h => isAt_of_target h nofun, fun i k h => isAt_of_target h nofun,
    fun i h => isAt_of_target h nofun, fun k h => isAt_of_target h nofun, fun i h => isAt_of_target h nofun,
    fun r => ⟨fun h => isAt_of_target h nofun, fun h => targetOfWord_of_isAt (t := .reg r) hP h⟩, ?_⟩
  rw [target_eq_unmapped_iff hP]
  constructor
  · exact fun h => ⟨fun r hr => h (.reg r) hr, fun i hi hx => h (.freq i) ⟨hi, hx⟩,
      fun n hn w hw hx => h (.node n w) ⟨hn, hw, hx⟩, fun i hi k hk hx => h (.code i k) ⟨hi, hk, hx⟩,
      fun i hi hx => h (.text i) ⟨hi, hx⟩, fun k hk hx => h (.art k) ⟨hk, hx⟩, fun i hi hx => h (.dtext i) ⟨hi, hx⟩⟩
  · rintro ⟨hreg, hfreq, hnode, hcode, htext, hart, hdtext⟩ t ht
    cases t with
    | reg r => exact hreg r ht
    | freq i => exact hfreq i ht.1 ht.2
    | node n w => exact hnode n ht.1 w ht.2.1 ht.2.2
    | code i k => exact hcode i ht.1 k ht.2.1 ht.2.2
    | text i => exact htext i ht.1 ht.2
    | art k => exact hart k ht.1 ht.2
    | dtext i => exact hdtext i ht.1 ht.2
    | unmapped => exact ht

end Sys2Proof.Machine
end

section
/-! PROOFS. What one step can do to the six tables (spec/20_memory.md R67, R75 and the commands' output rules), said
once; and that each of these keeps the canonical form of the memory. -/

namespace Sys2Proof.Machine

/-! ### One step, by the move that is made (R75) -/

/-- With nothing scheduled the step is the core's turn, so a property that no move can end, and that does not look at
the schedule, is kept by every step. -/
theorem step_keeps {P : State → Prop} (hagenda : ∀ s rest, P s → P { s with agenda := rest })
    (hmove : ∀ m s t, P s → runMove m s = .next t → P t) {s t : State} (hs : P s) (h : step s = .next t) : P t := by
  obtain ⟨-, hturn⟩ | ⟨m, rest, -, hrun⟩ := step_cases h
  · exact hmove .core s t hs hturn
  · exact hmove m _ t (hagenda s rest hs) hrun

set_option Elab.async false in
theorem exec_clrfreq (s : State) : exec .clrfreq s =
    .next (State.complete { s with mem := { s.mem with freq := s.mem.freq.fill s.params.nsym 0 } }) := rfl

/-! ### The tables after one step -/

/-- Everything a move or a command can leave in the six tables: what stood there, one entry a host write stores, what a
command writes, or contents that are unspecified anew. -/
inductive State.MemUpdate (s : State) : Memory → Prop
  | same : s.MemUpdate s.mem
  | freqEntry (i : Nat) (v : Word) (hi : i < s.params.nsym) :
      s.MemUpdate { s.mem with freq := s.mem.freq.write i (truncTo s.params.freqW v) }
  | textEntry (i : Nat) (v : Word) (hi : i < s.params.textCap) :
      s.MemUpdate { s.mem with text := s.mem.text.write i (BitVec.ofNat 10 (v.toNat % 2 ^ s.params.symW)) }
  | artEntry (k : Nat) (v : Word) (hk : k < s.params.artCap) :
      s.MemUpdate { s.mem with art := s.mem.art.write k (v.setWidth 8) }
  | zeroFreq : s.MemUpdate { s.mem with freq := s.mem.freq.fill s.params.nsym 0 }
  | tree : s.MemUpdate { s.mem with node := s.mem.node.writeList 0 (buildNodes s.leafNodes) }
  | codes (htree : s.treeState ≠ .none) : s.MemUpdate { s.mem with code := s.generatedCode }
  | artifact (raw : Bits) (hscan : encodeScan s s.textLen.toNat 0 [] = .ok raw) :
      s.MemUpdate { s.mem with art := s.mem.art.writeList 0 (pack raw) }
  | artLost (d : Nat) : s.MemUpdate { s.mem with art := Table.unwritten d }
  | text (htable : s.tableState ≠ .none) (h : Byte) (n : Nat) (out : List Symbol)
      (hart : decodeArtifact s = .ok (h, n, out)) :
      s.MemUpdate { s.mem with dtext := s.mem.dtext.writeList 0 out }
  | dtextLost (d : Nat) : s.MemUpdate { s.mem with dtext := Table.unwritten d }
  | lost (d : Nat) : s.MemUpdate (Memory.unwritten d)

theorem memUpdate_of_exec {i : Instr} {s t : State} (h : exec i s = .next t) : s.MemUpdate t.mem := by
  cases i with
  | nop => cases h; exact .same
  | clear => cases h; exact .same
  | clrerr => cases h; exact .same
  | clrfreq => cases h; exact .zeroFreq
  | buildTree => cases h; exact .tree
  | genTable =>
    obtain ⟨-, rfl⟩ | ⟨htree, rfl⟩ := exec_genTable_cases h
    · exact .same
    · exact .codes htree
  | encode =>
    obtain ⟨-, rfl⟩ | ⟨-, -, rfl⟩ | ⟨-, -, f, -, rfl⟩ | ⟨-, -, raw, hscan, rfl⟩ := execEncode_cases h
    · exact .same
    · exact .same
    · exact .artLost _
    · exact .artifact raw hscan
  | decode =>
    obtain ⟨-, rfl⟩ | ⟨-, -, rfl⟩ | ⟨-, -, f, -, rfl⟩ | ⟨htable, -, b, n, out, hart, rfl⟩ := execDecode_cases h
    · exact .dtextLost _
    · exact .dtextLost _
    · exact .dtextLost _
    · exact .text htable b n out hart

theorem memUpdate_of_hostWrite (a : Addr) (v : Word) (s : State) : s.MemUpdate (hostWrite a v s).mem := by
  obtain ⟨-, hw⟩ | ⟨-, hw⟩ := hostWrite_cases a v s
  · rw [hw]; exact .same
  rw [hw]
  obtain hm | hm | hm | hm | ⟨i, hi, hm⟩ | ⟨i, hi, hm⟩ | ⟨k, hk, hm⟩ := memWrite_cases a v s
  · rw [hm]; exact .same
  · rw [hm]; exact .same
  · rw [hm]; exact .same
  · rw [hm]; exact .same
  · rw [hm]; exact .freqEntry i v (isAt_of_target hi nofun).1
  · rw [hm]; exact .textEntry i v (isAt_of_target hi nofun).1
  · rw [hm]; exact .artEntry k v (isAt_of_target hk nofun).1

theorem memUpdate_of_coreTurn {s t : State} (h : coreTurn s = .next t) : s.MemUpdate t.mem := by
  obtain ⟨-, rfl⟩ | ⟨v, i, -, -, hexec⟩ | ⟨v, e, -, -, rfl⟩ := coreTurn_cases h
  · exact .same
  · exact memUpdate_of_exec hexec
  · exact .same

/-! ### What a host read leaves (R68) -/

/-- A pass of WAIT reads STATUS, and while BUSY = 1 it stays scheduled behind the core's turn. -/
theorem hostWait_cases (s : State) :
    (s.cmdLatch = none ∧ hostWait s = hostRead statusAddr s) ∨
    (s.cmdLatch ≠ none ∧ hostWait s = { hostRead statusAddr s with agenda := .core :: .wait :: s.agenda }) := by
  unfold hostWait
  cases hb : s.busy
  · exact .inl ⟨State.busy_eq_false.1 hb, rfl⟩
  · exact .inr ⟨by rw [Ne, ← State.busy_eq_false, hb]; nofun, rfl⟩

theorem memUpdate_of_runMove {m : Move} {s t : State} (h : runMove m s = .next t) : s.MemUpdate t.mem := by
  cases m with
  | write a v => cases h; exact memUpdate_of_hostWrite a v s
  | read a => cases h; exact .same
  | check a v => cases h; exact .same
  | wait =>
    cases h
    obtain ⟨-, hw⟩ | ⟨-, hw⟩ := hostWait_cases s
    · rw [hw]; exact .same
    · rw [hw]; exact .same
  | core => exact memUpdate_of_coreTurn h
  | reset => cases h; exact .lost _

/-! ### The canonical form (notes/assumptions/5.md) -/

theorem Table.wf_genWalk (s : State) (fuel : Nat) (stack : List (NodeIdx × Bits)) {t : Table Bits} (h : t.wf) :
    (genWalk s fuel stack t).wf := by
  induction fuel generalizing stack t with
  | zero => exact h
  | succ fuel ih =>
    match stack with
    | [] => rwa [genWalk_nil]
    | (n, p) :: stack =>
      cases hnode : s.nodeAt n.toNat with
      | leaf w sym => rw [genWalk_leaf hnode]; exact ih stack (Table.wf_write h _ _)
      | internal w l r => rw [genWalk_internal hnode]; exact ih _ h

theorem State.wf_generatedCode {s : State} (htree : s.treeState ≠ .none) (h : s.mem.code.wf) :
    s.generatedCode.wf := by
  have hcleared := Table.wf_fill h s.params.nsym []
  cases hkind : s.treeState with
  | none => exact absurd hkind htree
  | empty => rwa [State.generatedCode_of_empty hkind]
  | built =>
    by_cases hL : s.leafCount = 1
    · rw [State.generatedCode_of_one_leaf hkind hL]; exact Table.wf_write hcleared _ _
    · rw [State.generatedCode_of_leaves hkind hL]; exact Table.wf_genWalk _ _ _ hcleared

theorem State.MemUpdate.wf {s : State} {m : Memory} (h : s.MemUpdate m) (hwf : s.mem.wf) : m.wf := by
  obtain ⟨hfreq, hnode, hcode, htext, hart, hdtext⟩ := hwf
  cases h with
  | same => exact ⟨hfreq, hnode, hcode, htext, hart, hdtext⟩
  | freqEntry i v => exact ⟨Table.wf_write hfreq _ _, hnode, hcode, htext, hart, hdtext⟩
  | textEntry i v => exact ⟨hfreq, hnode, hcode, Table.wf_write htext _ _, hart, hdtext⟩
  | artEntry k v => exact ⟨hfreq, hnode, hcode, htext, Table.wf_write hart _ _, hdtext⟩
  | zeroFreq => exact ⟨Table.wf_fill hfreq _ _, hnode, hcode, htext, hart, hdtext⟩
  | tree => exact ⟨hfreq, Table.wf_writeList hnode _ _, hcode, htext, hart, hdtext⟩
  | codes htree => exact ⟨hfreq, hnode, State.wf_generatedCode htree hcode, htext, hart, hdtext⟩
  | artifact raw => exact ⟨hfreq, hnode, hcode, htext, Table.wf_writeList hart _ _, hdtext⟩
  | artLost d => exact ⟨hfreq, hnode, hcode, htext, Table.wf_unwritten d, hdtext⟩
  | text htable h n out => exact ⟨hfreq, hnode, hcode, htext, hart, Table.wf_writeList hdtext _ _⟩
  | dtextLost d => exact ⟨hfreq, hnode, hcode, htext, hart, Table.wf_unwritten d⟩
  | lost d => exact Memory.wf_unwritten d

/-! ### The obligation -/

/-- Settles O58: every update of the tables is a write, a list of writes or an empty table. -/
theorem stepKeepsMemoryCanonical : Obligations.StepKeepsMemoryCanonical := fun _ _ hwf h =>
  step_keeps (P := fun s => s.mem.wf) (fun _ _ hs => hs) (fun _ _ _ hs hrun => (memUpdate_of_runMove hrun).wf hs) hwf h

end Sys2Proof.Machine
end

section
/-! PROOFS. The invariant (spec/10_state.md R45, R46; spec/20_memory.md R64): every update of the tables writes entries
that fit, and every step keeps the shape of the tree and the consistency of the table. -/

namespace Sys2Proof.Machine

/-! ### The length of a path (R156) -/

section Depth

variable {s : State} (h : s.BuiltShape)
include h

/-- Each step of a walk goes to a lesser index. -/
theorem State.BuiltShape.walk_add_length_le {p : Bits} {x : Nat} (hwalk : s.walk s.root.toNat p = some x) :
    x + p.length ≤ 2 * s.leafCount - 2 := by
  induction p using List.reverseRecOn generalizing x with
  | nil =>
    obtain rfl := Option.some.inj hwalk
    exact h.root_eq.le
  | append_singleton p b ih =>
    obtain ⟨m, hm, hleaf, rfl⟩ := State.walk_concat_eq_some.1 hwalk
    have hle := ih hm
    have hlt := h.childAt_lt (h.isInternal_of_walk hm hleaf) b
    rw [List.length_append, List.length_singleton]
    omega

/-- A path passes only internal nodes before its end, and these are the entries from `L` on. -/
theorem State.BuiltShape.length_le_of_walk {p : Bits} {x : Nat} (hwalk : s.walk s.root.toNat p = some x) :
    p.length ≤ s.leafCount - 1 := by
  cases p using List.reverseRecOn with
  | nil => exact Nat.zero_le _
  | append_singleton p b =>
    obtain ⟨m, hm, hleaf, -⟩ := State.walk_concat_eq_some.1 hwalk
    have hle := h.walk_add_length_le hm
    have hge := (h.isInternal_of_walk hm hleaf).1
    rw [List.length_append, List.length_singleton]
    omega

theorem State.BuiltShape.root_isInternal (hL : s.leafCount ≠ 1) : s.IsInternal s.root.toNat := by
  have hpos := h.one_le_leafCount
  have hroot := h.root_eq
  exact ⟨by omega, by omega⟩

end Depth

/-! ### The codes GEN_TABLE writes fit CODE (R39, R156) -/

/-- Every cell the stack walk writes is a leaf's symbol with the leaf's path. -/
theorem mem_genWalk {s : State} {fuel : Nat} {stack : List (NodeIdx × Bits)} {t : Table Bits}
    (hstack : ∀ q ∈ stack, s.walk s.root.toNat q.2 = some q.1.toNat) {c : Nat × Bits}
    (hc : c ∈ (genWalk s fuel stack t).cells) :
    (∃ x, s.isLeafAt x = true ∧ s.walk s.root.toNat c.2 = some x ∧ c.1 = s.symbolAt x) ∨ c ∈ t.cells := by
  induction fuel generalizing stack t with
  | zero => exact .inr hc
  | succ fuel ih =>
    match stack with
    | [] => rw [genWalk_nil] at hc; exact .inr hc
    | (n, p) :: stack =>
      obtain ⟨hwalk, hrest⟩ := List.forall_mem_cons.1 hstack
      cases hnode : s.nodeAt n.toNat with
      | leaf w sym =>
        rw [genWalk_leaf hnode] at hc
        obtain hfound | hc := ih hrest hc
        · exact .inl hfound
        · obtain rfl | hc := Table.mem_write hc
          · exact .inl ⟨n.toNat, State.isLeafAt_of_leaf hnode, hwalk, (State.symbolAt_of_leaf hnode).symm⟩
          · exact .inr hc
      | internal w l r =>
        rw [genWalk_internal hnode] at hc
        have hleaf := State.isLeafAt_of_internal hnode
        refine ih (List.forall_mem_cons.2 ⟨?_, List.forall_mem_cons.2 ⟨?_, hrest⟩⟩) hc
        · exact State.walk_concat_eq_some.2 ⟨_, hwalk, hleaf, State.leftAt_of_internal hnode⟩
        · exact State.walk_concat_eq_some.2 ⟨_, hwalk, hleaf, State.rightAt_of_internal hnode⟩

/-- The longest code of a tree fits CODE. -/
theorem State.BuiltShape.length_code_le {s : State} (h : s.BuiltShape) {p : Bits} {x : Nat}
    (hwalk : s.walk s.root.toNat p = some x) : p.length ≤ s.params.maxCodeLen := by
  have hlen := h.length_le_of_walk hwalk
  have hle := h.leafCount_le_nsym
  rw [Params.maxCodeLen]
  omega

theorem State.Inv.treeShape {s : State} (h : s.Inv) : s.TreeShape := by
  obtain ⟨-, -, -, hshape, -⟩ := h
  exact hshape

theorem State.Inv.tableConsistent {s : State} (h : s.Inv) : s.TableConsistent := by
  obtain ⟨-, -, -, -, htable⟩ := h
  exact htable

set_option Elab.async false in
theorem State.Inv.mem_wf {s : State} (h : s.Inv) : s.mem.wf := by
  obtain ⟨-, hwf, -⟩ := h
  exact hwf

theorem State.Inv.generatedCode_fits {s : State} (hinv : s.Inv) (htree : s.treeState ≠ .none) :
    ∀ c ∈ s.generatedCode.cells, c.1 < s.params.nsym ∧ c.2.length ≤ s.params.maxCodeLen := by
  intro c hc
  obtain ⟨-, -, hcode, -⟩ := hinv.entriesFit
  obtain ⟨-, hbuilt⟩ := hinv.treeShape
  have hcleared : c ∈ (s.mem.code.fill s.params.nsym []).cells →
      c.1 < s.params.nsym ∧ c.2.length ≤ s.params.maxCodeLen := by
    intro hc
    obtain ⟨hlt, hempty⟩ | hc := Table.mem_fill hc
    · rw [hempty]; exact ⟨hlt, Nat.zero_le _⟩
    · exact hcode c hc
  cases hkind : s.treeState with
  | none => exact absurd hkind htree
  | empty => exact hcleared (State.generatedCode_of_empty hkind ▸ hc)
  | built =>
    have hshape := hbuilt hkind
    by_cases hL : s.leafCount = 1
    · rw [State.generatedCode_of_one_leaf hkind hL] at hc
      obtain rfl | hc := Table.mem_write hc
      · exact ⟨hshape.symbolAt_lt (by omega), Nat.le_max_left _ _⟩
      · exact hcleared hc
    · rw [State.generatedCode_of_leaves hkind hL] at hc
      obtain ⟨x, hleaf, hwalk, hsym⟩ | hc := mem_genWalk (List.forall_mem_singleton.2 rfl) hc
      · rw [hsym]
        exact ⟨hshape.symbolAt_lt ((hshape.isLeafAt_iff (hshape.lt_of_walk hwalk)).1 hleaf),
          hshape.length_code_le hwalk⟩
      · exact hcleared hc

/-! ### The symbols DECODE writes fit DTEXT (R42) -/

theorem Except.bind_eq_ok {ε α β : Type} {x : Except ε α} {f : α → Except ε β} {r : β} (h : x.bind f = .ok r) :
    ∃ a, x = .ok a ∧ f a = .ok r := by
  cases x with
  | error e => cases h
  | ok a => exact ⟨a, rfl, h⟩

/-- A leaf's symbol is in the alphabet, so emitting it keeps the text in it. -/
theorem State.BuiltShape.emitSymbol_lt {s : State} (h : s.BuiltShape) {n j : Nat} (hn : n < s.leafCount)
    {out out' : List Symbol} (hout : ∀ x ∈ out, x.toNat < s.params.nsym)
    (he : emitSymbol s out (nodeSymbol (s.nodeAt n)) j = .ok out') : ∀ x ∈ out', x.toNat < s.params.nsym := by
  obtain ⟨rfl, -⟩ := emitSymbol_ok he
  exact List.forall_mem_append.2 ⟨hout, List.forall_mem_singleton.2 (h.symbolAt_lt hn)⟩

/-- The payload loop emits symbols of leaves only. With two leaves or more its cursor is at an internal node. -/
theorem decodeScan_symbols_lt {s : State} (hready : s.tableState = .ready) (h : s.BuiltShape) {p : Bits} {j : Nat}
    {cur c : NodeIdx} {out o : List Symbol} (hcur : s.leafCount ≠ 1 → s.IsInternal cur.toNat)
    (hout : ∀ x ∈ out, x.toNat < s.params.nsym) (hscan : decodeScan s p j cur out = .ok (c, o)) :
    ∀ x ∈ o, x.toNat < s.params.nsym := by
  induction p generalizing j cur out with
  | nil => cases hscan; exact hout
  | cons b p ih =>
    by_cases hL : s.leafCount = 1
    case pos =>
      cases b with
      | true => rw [decodeScan_cons_true_of_one_leaf hready hL] at hscan; cases hscan
      | false =>
        rw [decodeScan_cons_of_one_leaf hready hL] at hscan
        obtain ⟨out', he, hscan⟩ := Except.bind_eq_ok hscan
        exact ih hcur (h.emitSymbol_lt h.one_le_leafCount hout he) hscan
    case neg =>
      have hlt : s.childAt cur.toNat b < 2 * s.leafCount - 1 :=
        (h.childAt_lt (hcur hL) b).trans (hcur hL).2
      cases hleaf : s.isLeafAt (s.childAt cur.toNat b) with
      | true =>
        rw [decodeScan_cons_of_leaf hready hL hleaf] at hscan
        obtain ⟨out', he, hscan⟩ := Except.bind_eq_ok hscan
        exact ih h.root_isInternal (h.emitSymbol_lt ((h.isLeafAt_iff hlt).1 hleaf) hout he) hscan
      | false =>
        rw [decodeScan_cons_of_internal hready hL hleaf] at hscan
        refine ih (fun _ => ?_) hout hscan
        rw [State.childOf_toNat]
        exact h.isInternal_of_lt hlt hleaf

theorem decodeArtifact_eq_ok {s : State} {h : Byte} {n : Nat} {out : List Symbol}
    (hart : decodeArtifact s = .ok (h, n, out)) :
    ∃ payload cur, decodeScan s payload 0 s.root [] = .ok (cur, out) := by
  unfold decodeArtifact at hart
  split at hart
  case h_1 => cases hart
  case h_2 payload _ =>
    split at hart
    case h_1 => cases hart
    case h_2 cur out' hscan =>
      split at hart
      case isTrue => cases hart
      case isFalse => cases hart; exact ⟨payload, cur, hscan⟩

theorem State.Inv.decoded_fits {s : State} (hinv : s.Inv) (htable : s.tableState ≠ .none) {h : Byte} {n : Nat}
    {out : List Symbol} (hart : decodeArtifact s = .ok (h, n, out)) :
    out.length ≤ s.params.dtextCap ∧ ∀ x ∈ out, x.toNat < s.params.nsym := by
  obtain ⟨payload, cur, hscan⟩ := decodeArtifact_eq_ok hart
  refine ⟨(decodeScan_ok hscan (Nat.zero_le _)).2, ?_⟩
  cases hstate : s.tableState with
  | none => exact absurd hstate htable
  | empty =>
    cases payload with
    | nil => cases hscan; exact List.forall_mem_nil _
    | cons b rest => rw [decodeScan_cons_of_empty hstate] at hscan; cases hscan
  | ready =>
    have hshape := hinv.builtShape hstate
    exact decodeScan_symbols_lt hstate hshape hshape.root_isInternal (List.forall_mem_nil _) hscan

/-! ### The tables' entries (R64) -/

theorem length_pack_le {s : State} (hP : s.params.legal = true) {raw : Bits}
    (hscan : encodeScan s s.textLen.toNat 0 [] = .ok raw) : (pack raw).length ≤ s.params.artCap := by
  obtain ⟨-, hraw, hfit⟩ := encodeScan_ok hscan
  rw [List.nil_append, ← List.range_eq_range'] at hraw
  obtain rfl : raw = s.rawBitsOf s.textLen.toNat := hraw
  exact pack_rawBitsOf_length_le hP hfit

/-- What holds of a table's cells and of the values to be written holds of the cells after the writes. -/
theorem Table.forall_mem_writeList {α : Type} {t : Table α} {vs : List α} {p : Nat × α → Prop}
    (ht : ∀ c ∈ t.cells, p c) (hvs : ∀ c : Nat × α, c.1 < vs.length → c.2 ∈ vs → p c) :
    ∀ c ∈ (t.writeList 0 vs).cells, p c := by
  intro c hc
  obtain ⟨-, hlt, hv⟩ | hc := Table.mem_writeList hc
  · exact hvs c (by omega) hv
  · exact ht c hc

theorem Table.forall_mem_write {α : Type} {t : Table α} {i : Nat} {v : α} {p : Nat × α → Prop}
    (ht : ∀ c ∈ t.cells, p c) (hp : p (i, v)) : ∀ c ∈ (t.write i v).cells, p c := by
  intro c hc
  obtain rfl | hc := Table.mem_write hc
  · exact hp
  · exact ht c hc

/-- An empty table has no entry that could not fit. -/
theorem State.entriesFit_of_unwritten {t : State} {d : Nat} (h : t.mem = Memory.unwritten d) : t.EntriesFit := by
  rw [State.EntriesFit, h]
  exact ⟨List.forall_mem_nil _, List.forall_mem_nil _, List.forall_mem_nil _, List.forall_mem_nil _,
    List.forall_mem_nil _, List.forall_mem_nil _⟩

/-- Every update of the tables of a state that meets the invariant writes entries that fit. -/
theorem State.MemUpdate.entriesFit {s t : State} (h : s.MemUpdate t.mem) (hparams : t.params = s.params)
    (hinv : s.Inv) : t.EntriesFit := by
  have hP := hinv.legal
  obtain ⟨hfreq, hnode, hcode, htext, hart, hdtext⟩ := hinv.entriesFit
  rw [State.EntriesFit, hparams]
  generalize t.mem = m at h ⊢
  cases h with
  | same => exact ⟨hfreq, hnode, hcode, htext, hart, hdtext⟩
  | freqEntry i v hi =>
    refine ⟨Table.forall_mem_write hfreq ⟨hi, ?_⟩, hnode, hcode, htext, hart, hdtext⟩
    rw [truncTo_toNat]
    exact Nat.mod_lt _ (Nat.two_pow_pos _)
  | textEntry i v hi =>
    refine ⟨hfreq, hnode, hcode, Table.forall_mem_write htext ⟨hi, ?_⟩, hart, hdtext⟩
    rw [toNat_ofNat_ten_mod (Params.symW_le_of_legal hP)]
    exact Nat.mod_lt _ (Nat.two_pow_pos _)
  | artEntry k v hk => exact ⟨hfreq, hnode, hcode, htext, Table.forall_mem_write hart hk, hdtext⟩
  | zeroFreq =>
    refine ⟨Table.forall_mem_writeList hfreq fun c hlt hzero => ⟨?_, ?_⟩, hnode, hcode, htext, hart, hdtext⟩
    · rwa [List.length_replicate] at hlt
    · rw [List.eq_of_mem_replicate hzero]
      exact Nat.two_pow_pos _
  | tree =>
    refine ⟨hfreq, Table.forall_mem_writeList hnode fun c hlt _ => ?_, hcode, htext, hart, hdtext⟩
    have hle := s.length_leafNodes_le
    rw [length_buildNodes] at hlt
    rw [Params.nodeMax]
    omega
  | codes htree => exact ⟨hfreq, hnode, hinv.generatedCode_fits htree, htext, hart, hdtext⟩
  | artifact raw hscan =>
    exact ⟨hfreq, hnode, hcode, htext,
      Table.forall_mem_writeList hart fun c hlt _ => hlt.trans_le (length_pack_le hP hscan), hdtext⟩
  | artLost d => exact ⟨hfreq, hnode, hcode, htext, List.forall_mem_nil _, hdtext⟩
  | text htable h n out hscan =>
    obtain ⟨hlen, hsyms⟩ := hinv.decoded_fits htable hscan
    exact ⟨hfreq, hnode, hcode, htext, hart,
      Table.forall_mem_writeList hdtext fun c hlt hmem => ⟨hlt.trans_le hlen, hsyms _ hmem⟩⟩
  | dtextLost d => exact ⟨hfreq, hnode, hcode, htext, hart, List.forall_mem_nil _⟩
  | lost d => exact State.entriesFit_of_unwritten (t := { s with mem := Memory.unwritten d }) rfl

/-! ### What the tree and the table are made of (R45, R46) -/

/-- Everything R45 and R46 speak of. -/
def State.treeAndTable (s : State) :
    Params × TreeState × TableState × BitVec 11 × BitVec 12 × NodeIdx × Table Node × Table Bits :=
  (s.params, s.treeState, s.tableState, s.leaves, s.nodeCount, s.root, s.mem.node, s.mem.code)

section Congr

variable {s t : State} (h : t.treeAndTable = s.treeAndTable)
include h

theorem State.treeShape_congr (hs : s.TreeShape) : t.TreeShape := by
  simp only [State.treeAndTable, Prod.mk.injEq] at h
  obtain ⟨hparams, htree, -, hleaves, hcount, hroot, hnode, -⟩ := h
  have hnodeAt : t.nodeAt = s.nodeAt := State.nodeAt_congr hnode
  have hL : t.leafCount = s.leafCount := congrArg BitVec.toNat hleaves
  have hleaf : t.isLeafAt = s.isLeafAt := by funext n; simp only [State.isLeafAt, hnodeAt]
  have hsym : t.symbolAt = s.symbolAt := by funext n; simp only [State.symbolAt, hnodeAt]
  have hweight : t.weightAt = s.weightAt := by funext n; simp only [State.weightAt, hnodeAt]
  have hleft : t.leftAt = s.leftAt := by funext n; simp only [State.leftAt, hnodeAt]
  have hright : t.rightAt = s.rightAt := by funext n; simp only [State.rightAt, hnodeAt]
  have hchild : t.isChildOf = s.isChildOf := by funext m n; simp only [State.isChildOf, hleft, hright]
  rwa [State.TreeShape, State.BuiltShape, htree, hparams, hleaves, hcount, hroot, hL, hleaf, hsym, hweight, hleft,
    hright, hchild]

theorem State.tableConsistent_congr (hs : s.TableConsistent) : t.TableConsistent := by
  simp only [State.treeAndTable, Prod.mk.injEq] at h
  obtain ⟨hparams, htree, htable, hleaves, -, hroot, hnode, hcode⟩ := h
  have hnodeAt : t.nodeAt = s.nodeAt := State.nodeAt_congr hnode
  have hcodeAt : t.codeAt = s.codeAt := State.codeAt_congr hparams hcode
  have hL : t.leafCount = s.leafCount := congrArg BitVec.toNat hleaves
  have hsym : t.symbolAt = s.symbolAt := by funext n; simp only [State.symbolAt, hnodeAt]
  have hwalk : t.walk = s.walk := by funext n p; exact State.walk_congr hnodeAt n p
  rwa [State.TableConsistent, State.CodesAreTreePaths, htree, htable, hparams, hroot, hL, hsym, hcodeAt, hwalk]

end Congr

/-- A step that writes fitting entries and leaves the tree and the table as they are keeps the invariant. -/
theorem State.Inv.of_update {s t : State} (hinv : s.Inv) (hmem : s.MemUpdate t.mem)
    (hsame : t.treeAndTable = s.treeAndTable) : t.Inv := by
  have hparams : t.params = s.params := congrArg Prod.fst hsame
  exact ⟨hparams ▸ hinv.legal, hmem.wf hinv.mem_wf, hmem.entriesFit hparams hinv,
    State.treeShape_congr hsame hinv.treeShape, State.tableConsistent_congr hsame hinv.tableConsistent⟩

/-- With no table there is nothing for the table to be consistent with. -/
theorem State.tableConsistent_of_none {s : State} (h : s.tableState = .none) : s.TableConsistent := by
  rw [State.TableConsistent, h]
  exact ⟨fun hne => absurd rfl hne, nofun, nofun⟩

theorem State.treeShape_of_none {s : State} (h : s.treeState = .none) : s.TreeShape := by
  rw [State.TreeShape, h]
  exact ⟨nofun, nofun⟩

set_option Elab.async false in
/-- A step that leaves neither a tree nor a table keeps the invariant. -/
theorem State.Inv.of_none {s t : State} (hinv : s.Inv) (hmem : s.MemUpdate t.mem) (hparams : t.params = s.params)
    (htree : t.treeState = .none) (htable : t.tableState = .none) : t.Inv :=
  ⟨hparams ▸ hinv.legal, hmem.wf hinv.mem_wf, hmem.entriesFit hparams hinv, State.treeShape_of_none htree,
    State.tableConsistent_of_none htable⟩

/-! ### BUILD_TREE and GEN_TABLE (R133, R150) -/

theorem treeShape_of_buildTree {s t : State} (hP : s.params.legal = true) (hfit : s.EntriesFit)
    (h : exec .buildTree s = .next t) : t.TreeShape := by
  by_cases hL : s.leafNodes.length = 0
  case pos =>
    refine ⟨fun _ => ⟨?_, ?_, ?_⟩, fun hbuilt => ?_⟩
    · rw [leaves_of_buildTree h, hL]; rfl
    · rw [nodeCount_of_buildTree h, if_pos hL]
    · rw [root_of_buildTree h, if_pos hL]
    · rw [treeState_of_buildTree h, if_pos hL] at hbuilt
      cases hbuilt
  case neg =>
    refine ⟨fun hempty => ?_, fun _ => builtShape_of_buildTree hP h hfit hL⟩
    rw [treeState_of_buildTree h, if_neg hL] at hempty
    cases hempty

theorem tableState_of_buildTree {s t : State} (h : exec .buildTree s = .next t) : t.tableState = .none := by
  cases h; rfl

theorem inv_of_buildTree {s t : State} (hinv : s.Inv) (h : exec .buildTree s = .next t) : t.Inv := by
  have hparams := params_of_buildTree h
  have hmem := memUpdate_of_exec h
  exact ⟨hparams ▸ hinv.legal, hmem.wf hinv.mem_wf, hmem.entriesFit hparams hinv,
    treeShape_of_buildTree hinv.legal hinv.entriesFit h, State.tableConsistent_of_none (tableState_of_buildTree h)⟩

theorem tableConsistent_of_genTable {s t : State} (hinv : s.Inv) (h : exec .genTable s = .next t)
    (htree : s.treeState ≠ .none) : t.TableConsistent := by
  rw [State.TableConsistent, tableState_of_genTable h htree, treeState_of_genTable h, params_of_genTable h]
  cases hkind : s.treeState with
  | none => exact absurd hkind htree
  | empty =>
    refine ⟨fun _ => ⟨nofun, fun _ => rfl, fun _ => rfl⟩, fun _ i hi => ?_, nofun⟩
    exact codeAt_of_genTable h htree (by rw [State.generatedCode_of_empty hkind, Table.read_fill, if_pos hi])
  | built =>
    obtain ⟨-, hbuilt⟩ := hinv.treeShape
    exact ⟨fun _ => ⟨nofun, nofun, nofun⟩, nofun, fun _ => codesAreTreePaths_of_genTable (hbuilt hkind) hkind h⟩

/-- The shape of the tree does not depend on the codes, which GEN_TABLE writes. -/
theorem inv_of_genTable {s t : State} (hinv : s.Inv) (h : exec .genTable s = .next t) : t.Inv := by
  have hmem := memUpdate_of_exec h
  have htable := tableConsistent_of_genTable hinv h
  obtain ⟨-, rfl⟩ | ⟨hne, rfl⟩ := exec_genTable_cases h
  · exact hinv.of_update hmem rfl
  · exact ⟨hinv.legal, hmem.wf hinv.mem_wf, hmem.entriesFit rfl hinv, hinv.treeShape, htable hne⟩

/-! ### The invariant, by move (R75) -/

theorem inv_of_exec {i : Instr} {s t : State} (hinv : s.Inv) (h : exec i s = .next t) : t.Inv := by
  have hmem := memUpdate_of_exec h
  cases i with
  | nop => cases h; exact hinv.of_update hmem rfl
  | clear => cases h; exact hinv.of_none hmem rfl rfl rfl
  | clrerr => cases h; exact hinv.of_update hmem rfl
  | clrfreq => cases h; exact hinv.of_update hmem rfl
  | buildTree => exact inv_of_buildTree hinv h
  | genTable => exact inv_of_genTable hinv h
  | encode =>
    obtain ⟨heq, -⟩ := encodeChangesOnlyItsOutputs s t h
    exact hinv.of_update hmem (by rw [heq]; rfl)
  | decode =>
    obtain ⟨heq, -⟩ := decodeChangesOnlyItsOutputs s t h
    exact hinv.of_update hmem (by rw [heq]; rfl)

theorem inv_of_coreTurn {s t : State} (hinv : s.Inv) (h : coreTurn s = .next t) : t.Inv := by
  obtain ⟨-, rfl⟩ | ⟨v, i, -, -, hexec⟩ | ⟨v, e, -, -, rfl⟩ := coreTurn_cases h
  · exact hinv
  · exact inv_of_exec hinv hexec
  · exact hinv.of_update .same rfl

/-- A host write changes neither the tree nor the table (R67, R69). -/
theorem treeAndTable_hostWrite (a : Addr) (v : Word) (s : State) :
    (hostWrite a v s).treeAndTable = s.treeAndTable := by
  obtain ⟨-, hw⟩ | ⟨-, hw⟩ := hostWrite_cases a v s
  · rw [hw]; rfl
  rw [hw]
  obtain hm | hm | hm | hm | ⟨i, -, hm⟩ | ⟨i, -, hm⟩ | ⟨k, -, hm⟩ := memWrite_cases a v s <;> rw [hm] <;> rfl

theorem inv_of_runMove {m : Move} {s t : State} (hinv : s.Inv) (h : runMove m s = .next t) : t.Inv := by
  have hmem := memUpdate_of_runMove h
  cases m with
  | write a v => cases h; exact hinv.of_update hmem (treeAndTable_hostWrite a v s)
  | read a => cases h; exact hinv.of_update hmem rfl
  | check a v => cases h; exact hinv.of_update hmem rfl
  | wait =>
    cases h
    obtain ⟨-, hw⟩ | ⟨-, hw⟩ := hostWait_cases s
    · rw [hw]; exact hinv.of_update .same rfl
    · rw [hw]; exact hinv.of_update .same rfl
  | core => exact inv_of_coreTurn hinv h
  | reset => cases h; exact hinv.of_none hmem rfl rfl rfl

/-! ### The obligations -/

/-- Settles O59: every move keeps the invariant, which does not look at the schedule. -/
theorem stepKeepsTreeAndTableConsistent : Obligations.StepKeepsTreeAndTableConsistent := fun _ _ hinv h =>
  step_keeps (P := State.Inv) (fun _ _ hs => hs.of_update .same rfl) (fun _ _ _ hs hrun => inv_of_runMove hs hrun)
    hinv h

theorem inv_resetWith {P : Params} (hP : P.legal = true) : (State.resetWith P).Inv :=
  ⟨hP, Memory.wf_unwritten 0, State.entriesFit_of_unwritten rfl, State.treeShape_of_none rfl,
    State.tableConsistent_of_none rfl⟩

/-- Settles O60: after reset there is no tree and no table, and no entry has been written. -/
theorem resetMeetsInvariant : Obligations.ResetMeetsInvariant :=
  ⟨fun _ hP => inv_resetWith hP, inv_resetWith (by decide)⟩

end Sys2Proof.Machine
end

section
/-! PROOFS. The codes of a READY table as a code (spec/42_code_table.md R155, R156): no code begins another, every
infinite bit string begins with one, and the longest is no longer than the tree is deep. -/

namespace Sys2Proof.Machine

/-! ### Walks and prefixes (R152, R155) -/

theorem State.walk_append {s : State} (n : Nat) (p q : Bits) :
    s.walk n (p ++ q) = (s.walk n p).bind fun m => s.walk m q := by
  induction p generalizing n with
  | nil => rfl
  | cons b p ih =>
    rw [List.cons_append, State.walk_cons, State.walk_cons]
    split
    · rfl
    · exact ih _

/-- A walk stops at a leaf. -/
theorem State.eq_nil_of_walk_leaf {s : State} {n x : Nat} {p : Bits} (hleaf : s.isLeafAt n = true)
    (hwalk : s.walk n p = some x) : p = [] := by
  cases p with
  | nil => rfl
  | cons b p =>
    rw [State.walk_cons, if_pos hleaf] at hwalk
    cases hwalk

section Ready

variable {s : State} (hcodes : s.CodesAreTreePaths) (h : s.BuiltShape)
include hcodes h

theorem State.CodesAreTreePaths.codeAt_ne_nil {x : Nat} (hx : x < s.leafCount) : s.codeAt (s.symbolAt x) ≠ [] := by
  by_cases hL : s.leafCount = 1
  case pos =>
    obtain rfl : x = 0 := by omega
    rw [hcodes.codeAt_of_one_leaf hL]
    exact List.cons_ne_nil _ _
  case neg =>
    have hpos := h.one_le_leafCount
    exact h.ne_nil_of_walk (by omega) hx (hcodes.walk_codeAt hL hx)

/-- A code that begins another code is that code: its walk ends at a leaf, where the other walk ends too. -/
theorem State.CodesAreTreePaths.eq_of_prefix {i j : Nat} (hi : i < s.params.nsym) (hj : j < s.params.nsym)
    (hnei : s.codeAt i ≠ []) (hnej : s.codeAt j ≠ []) (hprefix : s.codeAt i <+: s.codeAt j) : i = j := by
  obtain ⟨x, hx, rfl⟩ := hcodes.exists_leaf hi hnei
  obtain ⟨y, hy, rfl⟩ := hcodes.exists_leaf hj hnej
  by_cases hL : s.leafCount = 1
  case pos => rw [show x = y by omega]
  case neg =>
    obtain ⟨r, hr⟩ := hprefix
    have hleaf : s.isLeafAt x = true := (h.isLeafAt_iff (by omega)).2 hx
    have hwalk := hcodes.walk_codeAt hL hy
    rw [← hr, State.walk_append, hcodes.walk_codeAt hL hx] at hwalk
    obtain rfl := State.eq_nil_of_walk_leaf hleaf hwalk
    rw [Option.some.inj hwalk]

/-- The codes are no longer than the tree is deep (R156). -/
theorem State.CodesAreTreePaths.clen_le {i : Nat} (hi : i < s.params.nsym) :
    s.clen i ≤ max 1 (s.leafCount - 1) := by
  by_cases hne : s.codeAt i = []
  case pos => rw [State.clen, hne]; exact Nat.zero_le _
  case neg =>
    obtain ⟨x, hx, rfl⟩ := hcodes.exists_leaf hi hne
    by_cases hL : s.leafCount = 1
    case pos =>
      obtain rfl : x = 0 := by omega
      rw [State.clen, hcodes.codeAt_of_one_leaf hL]
      exact Nat.le_max_left _ _
    case neg => exact (h.length_le_of_walk (hcodes.walk_codeAt hL hx)).trans (Nat.le_max_right _ _)

end Ready

/-! ### Walking along an infinite bit string (R155) -/

/-- The first `k` bits of an infinite bit string. -/
def firstBits (f : Nat → Bool) (k : Nat) : Bits := (List.range k).map f

@[simp] theorem length_firstBits (f : Nat → Bool) (k : Nat) : (firstBits f k).length = k := by
  rw [firstBits, List.length_map, List.length_range]

theorem firstBits_succ (f : Nat → Bool) (k : Nat) : firstBits f (k + 1) = firstBits f k ++ [f k] := by
  rw [firstBits, List.range_succ, List.map_append]
  rfl

set_option Elab.async false in
theorem firstBits_prefix (f : Nat → Bool) {j k : Nat} (h : j ≤ k) : firstBits f j <+: firstBits f k := by
  induction h with
  | refl => exact List.prefix_rfl
  | step _ ih => exact ih.trans (firstBits_succ f _ ▸ List.prefix_append _ _)

/-- From any node of the tree the bits lead on to a leaf: each step goes to a lesser index. -/
theorem State.BuiltShape.exists_leaf_of_walk {s : State} (h : s.BuiltShape) (f : Nat → Bool) {n k : Nat}
    (hwalk : s.walk s.root.toNat (firstBits f k) = some n) :
    ∃ x < s.leafCount, ∃ k', s.walk s.root.toNat (firstBits f k') = some x := by
  induction n using Nat.strong_induction_on generalizing k with
  | _ n ih =>
    cases hleaf : s.isLeafAt n with
    | true => exact ⟨n, (h.isLeafAt_iff (h.lt_of_walk hwalk)).1 hleaf, k, hwalk⟩
    | false =>
      have hchild := h.childAt_lt (h.isInternal_of_walk hwalk hleaf) (f k)
      refine ih _ hchild (k := k + 1) ?_
      rw [firstBits_succ]
      exact State.walk_concat_eq_some.2 ⟨n, hwalk, hleaf, rfl⟩

/-! ### The obligations -/

/-- Settles O21: the walk of a code ends at a leaf, and no walk goes on from there. -/
theorem codesArePrefixFree : Obligations.CodesArePrefixFree := by
  intro s hinv hready
  have hcodes := hinv.codesAreTreePaths hready
  have hshape := hinv.builtShape hready
  exact ⟨fun x hx => hcodes.codeAt_ne_nil hshape hx, fun i hi j hj hij hnei hnej hprefix =>
    hij (hcodes.eq_of_prefix hshape hi hj hnei hnej hprefix)⟩

/-- Settles O22: the bits lead from the root to a leaf, whose code they begin with; two codes they begin with are
prefixes of one another. -/
theorem codesAreComplete : Obligations.CodesAreComplete := by
  intro s hinv hready hL f
  have hcodes := hinv.codesAreTreePaths hready
  have hshape := hinv.builtShape hready
  obtain ⟨x, hx, k, hwalk⟩ := hshape.exists_leaf_of_walk f (k := 0) rfl
  have hcode : s.codeAt (s.symbolAt x) = firstBits f k :=
    hshape.walk_inj (hcodes.walk_codeAt (by omega) hx) hwalk
  have hlen : s.clen (s.symbolAt x) = k := by rw [State.clen, hcode, length_firstBits]
  have hsym := hshape.symbolAt_lt hx
  have hne := hcodes.codeAt_ne_nil hshape hx
  refine ⟨s.symbolAt x, ⟨hsym, hne, hlen.symm ▸ hcode⟩, fun j hj hnej hcodej => ?_⟩
  obtain hle | hle := Nat.le_total (s.clen j) k
  · have hprefix : s.codeAt j <+: s.codeAt (s.symbolAt x) := by
      rw [hcodej, hcode]; exact firstBits_prefix f hle
    exact hcodes.eq_of_prefix hshape hj hsym hnej hne hprefix
  · have hprefix : s.codeAt (s.symbolAt x) <+: s.codeAt j := by
      rw [hcodej, hcode]; exact firstBits_prefix f hle
    exact (hcodes.eq_of_prefix hshape hsym hj hne hnej hprefix).symm

/-- Settles O23: a path passes each of the `L - 1` internal nodes at most once. -/
theorem codeLengthBound : Obligations.CodeLengthBound := by
  intro s hinv hready
  have hcodes := hinv.codesAreTreePaths hready
  have hshape := hinv.builtShape hready
  refine ⟨hshape.leafCount_le_nsym, fun hL => ⟨?_, fun i hi => ?_⟩, fun hL i hi => ?_⟩
  · rw [State.clen, hcodes.codeAt_of_one_leaf hL]; rfl
  · have := hcodes.clen_le hshape hi
    omega
  · have := hcodes.clen_le hshape hi
    omega

end Sys2Proof.Machine
end

section
/-! PROOFS. From a word to a command's step (spec/30_encoding.md R90 to R93, spec/40_control.md R110, R111): a word is
its two fields, the decoder reads exactly the eight commands' words, and the core's turn runs what is latched. -/

namespace Sys2Proof

/-! ### A word and its fields (R90, R93) -/

theorem eq_of_fields_eq {v w : Word} (hop : opField v = opField w) (hrsvd : rsvdField v = rsvdField w) : v = w := by
  have hop' := congrArg BitVec.toNat hop
  have hrsvd' := congrArg BitVec.toNat hrsvd
  rw [toNat_opField, toNat_opField] at hop'
  rw [toNat_rsvdField, toNat_rsvdField] at hrsvd'
  exact BitVec.eq_of_toNat_eq (by omega)

theorem eq_opOf_of_decodeOp {op : Nat} {i : Instr} (h : decodeOp op = .ok i) : op = (opOf i).toNat := by
  unfold decodeOp at h
  split at h
  case h_9 => cases h
  all_goals cases h; rfl

theorem fields_of_decode {v : Word} {i : Instr} (h : decode v = .ok i) : opField v = opOf i ∧ rsvdField v = 0 := by
  by_cases hrsvd : rsvdField v = 0
  case pos =>
    rw [decode_of_rsvdField_eq_zero hrsvd] at h
    exact ⟨BitVec.eq_of_toNat_eq (eq_opOf_of_decodeOp h), hrsvd⟩
  case neg => rw [decode_of_rsvdField_ne_zero hrsvd] at h; cases h

/-- Settles O2: what the decoder has read fixes both fields of the word. -/
theorem decodeInvertsEncode : Obligations.DecodeInvertsEncode := by
  intro v i
  constructor
  · intro h
    obtain ⟨hop, hrsvd⟩ := fields_of_decode h
    obtain ⟨hop', hrsvd', -⟩ := formatStatement i
    exact eq_of_fields_eq (hop.trans hop'.symm) (hrsvd.trans hrsvd'.symm)
  · rintro rfl
    exact decode_encode i

theorem decode_of_decodeTableWord {nbits w : Nat} {i : Instr} (h : decodeTableWord nbits w = some i) :
    decode (BitVec.ofNat 32 (w % 2 ^ nbits)) = .ok i := by
  unfold decodeTableWord at h
  split at h
  case h_1 heq => cases h; exact heq
  case h_2 => cases h

end Sys2Proof

namespace Sys2Proof.Machine

/-! ### The step, by the schedule and the latch (R75, R111) -/

section Step

variable {s : State}

theorem step_of_idle (h : s.agenda = []) : step s = coreTurn s := by
  rw [step, schedule, h]

theorem step_of_move {m : Move} {rest : List Move} (h : s.agenda = m :: rest) :
    step s = runMove m { s with agenda := rest } := by
  rw [step, schedule, h]

set_option Elab.async false in
theorem step_of_core {rest : List Move} (h : s.agenda = .core :: rest) : step s = coreTurn { s with agenda := rest } :=
  step_of_move h

theorem coreTurn_of_empty (h : s.cmdLatch = none) : coreTurn s = .next s := by
  rw [coreTurn, h]

theorem coreTurn_of_decode {v : Word} {i : Instr} (h : s.cmdLatch = some v) (hv : decode v = .ok i) :
    coreTurn s = exec i s := by
  rw [coreTurn, h]
  simp only [runWord, hv]

theorem coreTurn_of_illegal {v : Word} {e : Illegal} (h : s.cmdLatch = some v) (hv : decode v = .error e) :
    coreTurn s = .next { s with result := 0x01, errInfo := v, err := true, cmdLatch := none } := by
  rw [coreTurn, h]
  simp only [runWord, hv, illegalCommand, State.raise_eq, ErrorCode.code]

end Step

/-! ### The obligations -/

/-- Settles O4: at both turns of the core, and for a command that `withFetchWord` puts in the latch. -/
theorem stepRunsDecodedCommand : Obligations.StepRunsDecodedCommand := by
  refine ⟨fun s v i hlatch hv => ⟨fun hidle => ?idle, fun rest hcore => ?core⟩, fun s nbits w i hw => ?fetch⟩
  case idle => exact (step_of_idle hidle).trans (coreTurn_of_decode hlatch hv)
  case core => exact (step_of_core hcore).trans (coreTurn_of_decode hlatch hv)
  case fetch => exact (step_of_idle rfl).trans (coreTurn_of_decode rfl (decode_of_decodeTableWord hw))

/-- Settles O5, at both turns of the core. -/
theorem stepRunsIllegalWord : Obligations.StepRunsIllegalWord := by
  refine fun s v e hlatch hv => ⟨fun hidle => ?idle, fun rest hcore => ?core⟩
  case idle => exact (step_of_idle hidle).trans (coreTurn_of_illegal hlatch hv)
  case core => exact (step_of_core hcore).trans (coreTurn_of_illegal hlatch hv)

/-- Settles O6, at both turns of the core. -/
theorem coreIdlesWithoutCommand : Obligations.CoreIdlesWithoutCommand := by
  refine fun s hlatch => ⟨fun hidle => ?idle, fun rest hcore => ?core⟩
  case idle => exact (step_of_idle hidle).trans (coreTurn_of_empty hlatch)
  case core => exact (step_of_core hcore).trans (coreTurn_of_empty hlatch)

end Sys2Proof.Machine
end

section
/-! PROOFS. The remaining rules of the commands' tables: what CLRFREQ, BUILD_TREE of no symbol or one, and GEN_TABLE
write, and what is answered when a tree, a table or a length is missing (spec/40_control.md R118,
spec/41_tree_builder.md R135 to R137, spec/42_code_table.md R150, spec/44_encoder.md R193). -/

namespace Sys2Proof.Machine

/-- Settles O10: the fill writes the entries below NSYM and no other. -/
theorem clrfreqZeroesFreq : Obligations.ClrfreqZeroesFreq := by
  intro s
  refine ⟨s.mem.freq.fill s.params.nsym 0, ?next, Table.fill_epoch _ _ _, fun i hi => ?below, fun i hi => ?above⟩
  case next => rw [exec_clrfreq, State.complete_eq]
  case below => rw [Table.read_fill, if_pos hi]
  case above => rw [Table.read_fill, if_neg hi.not_gt]

/-! ### BUILD_TREE of no symbol or one (R135, R136) -/

theorem State.leafNodes_eq_nil {s : State} (h : ∀ j < s.params.nsym, s.freqAt j = 0) : s.leafNodes = [] := by
  rw [State.leafNodes_eq_filterMap, List.filterMap_eq_nil_iff]
  exact fun j hj => State.leafOf_of_freqAt_eq_zero (h j (List.mem_range.1 hj))

theorem State.leafNodes_eq_singleton {s : State} {i : Nat} (hi : i < s.params.nsym) (hfreq : s.freqAt i ≠ 0)
    (hzero : ∀ j < s.params.nsym, j ≠ i → s.freqAt j = 0) :
    s.leafNodes = [.leaf (s.freqAt i) (BitVec.ofNat 10 i)] := by
  have hlen : s.leafNodes.length = 1 := by
    rw [State.length_leafNodes]
    refine length_filter_range_eq_one hi (bne_iff_ne.2 hfreq) fun j hj hne => ?_
    exact not_imp_comm.1 (hzero j hj) (bne_iff_ne.1 hne)
  obtain ⟨n, hn⟩ := List.length_eq_one_iff.1 hlen
  have hmem : Node.leaf (s.freqAt i) (BitVec.ofNat 10 i) ∈ s.leafNodes :=
    List.mem_of_getElem? (State.leafNodes_getElem? hi hfreq)
  rw [hn] at hmem ⊢
  rw [List.mem_singleton.1 hmem]

/-- Settles O14: the one leaf is the whole tree, and without a leaf no node is written. -/
theorem buildTreeDegenerateCases : Obligations.BuildTreeDegenerateCases := by
  constructor
  · intro s i hi hfreq hzero
    have hleaf := State.leafNodes_eq_singleton hi hfreq hzero
    have h := exec_buildTree s
    have hlen : s.leafNodes.length = 1 := by rw [hleaf]; rfl
    refine ⟨_, h, rfl, ?_, ?_, ?_, ?_, ?_⟩
    · rw [leaves_of_buildTree h, hlen]; rfl
    · rw [nodeCount_of_buildTree h, hlen]; rfl
    · rw [root_of_buildTree h, hlen]; rfl
    · rw [treeState_of_buildTree h, hlen]; rfl
    · rw [nodeAt_leaf_of_buildTree h (by rw [hlen]; exact Nat.one_pos)]
      simp only [hleaf, List.getElem_cons_zero]
  · intro s hzero
    have hnodes : buildNodes [] = [] := rfl
    rw [exec_buildTree, State.leafNodes_eq_nil hzero, hnodes, State.complete_eq]
    rfl

/-! ### GEN_TABLE (R150) -/

theorem exec_genTable_of_no_tree {s : State} (htree : s.treeState = .none) :
    exec .genTable s = .next (s.raise { code := .noTree, info := 0 }) := by
  obtain ⟨t, ht⟩ := exists_exec_genTable s
  obtain ⟨-, rfl⟩ | ⟨hne, -⟩ := exec_genTable_cases ht
  · exact ht
  · exact absurd htree hne

theorem exec_genTable_of_tree {s : State} (htree : s.treeState ≠ .none) :
    exec .genTable s = .next (State.complete { s with
      mem := { s.mem with code := s.generatedCode }
      tableState := if s.treeState = .empty then .empty else .ready }) := by
  obtain ⟨t, ht⟩ := exists_exec_genTable s
  rw [ht, eq_complete_of_genTable ht htree]

/-- Settles O17, the first of the two things GEN_TABLE can do. -/
theorem genTableNeedsTree : Obligations.GenTableNeedsTree := by
  intro s htree
  rw [exec_genTable_of_no_tree htree, State.raise_eq]
  rfl

theorem genWalk_epoch (s : State) (fuel : Nat) (stack : List (NodeIdx × Bits)) (t : Table Bits) :
    (genWalk s fuel stack t).epoch = t.epoch := by
  induction fuel generalizing stack t with
  | zero => rfl
  | succ fuel ih =>
    match stack with
    | [] => rw [genWalk_nil]
    | (n, p) :: stack =>
      cases hnode : s.nodeAt n.toNat with
      | leaf w sym => rw [genWalk_leaf hnode, ih, Table.write_epoch]
      | internal w l r => rw [genWalk_internal hnode, ih]

theorem Table.exists_read_write {t : Table Bits} {i : Nat} (h : ∃ c, t.read i = some c) (j : Nat) (c : Bits) :
    ∃ d, (t.write j c).read i = some d := by
  rw [Table.read_write]
  split
  · exact ⟨c, rfl⟩
  · exact h

/-- What the walk finds written stays written. -/
theorem exists_read_genWalk (s : State) (fuel : Nat) (stack : List (NodeIdx × Bits)) {t : Table Bits} {i : Nat}
    (h : ∃ c, t.read i = some c) : ∃ c, (genWalk s fuel stack t).read i = some c := by
  induction fuel generalizing stack t with
  | zero => exact h
  | succ fuel ih =>
    match stack with
    | [] => rwa [genWalk_nil]
    | (n, p) :: stack =>
      cases hnode : s.nodeAt n.toNat with
      | leaf w sym => rw [genWalk_leaf hnode]; exact ih stack (Table.exists_read_write h _ _)
      | internal w l r => rw [genWalk_internal hnode]; exact ih _ h

theorem State.generatedCode_spec {s : State} (htree : s.treeState ≠ .none) :
    s.generatedCode.epoch = s.mem.code.epoch ∧ ∀ i < s.params.nsym, ∃ c, s.generatedCode.read i = some c := by
  have hepoch := Table.fill_epoch s.mem.code s.params.nsym []
  have hread : ∀ i < s.params.nsym, ∃ c, (s.mem.code.fill s.params.nsym []).read i = some c :=
    fun i hi => ⟨[], by rw [Table.read_fill, if_pos hi]⟩
  cases hkind : s.treeState with
  | none => exact absurd hkind htree
  | empty => rw [State.generatedCode_of_empty hkind]; exact ⟨hepoch, hread⟩
  | built =>
    by_cases hL : s.leafCount = 1
    case pos =>
      rw [State.generatedCode_of_one_leaf hkind hL]
      exact ⟨hepoch, fun i hi => Table.exists_read_write (hread i hi) _ _⟩
    case neg =>
      rw [State.generatedCode_of_leaves hkind hL]
      exact ⟨(genWalk_epoch _ _ _ _).trans hepoch, fun i hi => exists_read_genWalk _ _ _ (hread i hi)⟩

/-- Settles O18: every entry is emptied first, and the walk only writes. -/
theorem genTableWritesOnlyCode : Obligations.GenTableWritesOnlyCode := by
  intro s htree
  obtain ⟨hepoch, hread⟩ := State.generatedCode_spec htree
  refine ⟨s.generatedCode, ?next, hepoch, hread, fun hempty i hi => ?empty⟩
  case next => rw [exec_genTable_of_tree htree, State.complete_eq]
  case empty => rw [State.generatedCode_of_empty hempty, Table.read_fill, if_pos hi]

/-! ### ENCODE without a table or with too long a text (R193, R231) -/

section NoEncode

variable {s : State}

set_option Elab.async false in
theorem exec_encode_of_no_table (h : s.tableState = .none) :
    exec .encode s = .next (s.encodeErrorEffects.raise { code := .noTable, info := 0 }) :=
  congrArg Host.Outcome.next (if_pos h)

set_option Elab.async false in
theorem exec_encode_of_long (htable : s.tableState ≠ .none) (hlen : s.params.textCap < s.textLen.toNat) :
    exec .encode s = .next (s.encodeErrorEffects.raise { code := .badLen, info := s.textLen }) :=
  congrArg Host.Outcome.next ((if_neg htable).trans (if_pos hlen))

end NoEncode

/-- Settles O30: the two failures before the text loop. -/
theorem encodeWithoutTableOrLength : Obligations.EncodeWithoutTableOrLength := by
  intro s
  constructor
  · intro htable
    rw [exec_encode_of_no_table htable, State.raise_eq]; rfl
  · intro htable hlen
    rw [exec_encode_of_long htable hlen, State.raise_eq]; rfl

/-- Settles O16: BUILD_TREE leaves no table, whatever tree it builds. -/
theorem noTableAfterBuildTree : Obligations.NoTableAfterBuildTree := by
  intro s
  have h := exec_buildTree s
  have htable := tableState_of_buildTree h
  exact ⟨_, h, htable, ⟨_, exec_encode_of_no_table htable, rfl⟩, ⟨_, exec_decode_of_no_table htable, rfl⟩⟩

end Sys2Proof.Machine
end

section
/-! PROOFS. Completion (spec/40_control.md R111, R112, spec/60_exceptions.md R230, R234): every command ends in one
completion, and what it writes beside that. -/

namespace Sys2Proof.Machine

/-! ### Every command ends (R111, R112) -/

theorem exists_exec (i : Instr) (s : State) : ∃ t, exec i s = .next t := by
  cases i <;> exact ⟨_, rfl⟩

/-- `t` is `u` after a completion with success or with a listed error code (R112, R230). -/
def State.EndsAs (u t : State) : Prop :=
  ∃ code info, t = u.finish code info ∧ code.toNat ≤ 0x09 ∧ (code = 0 → info = 0)

set_option Elab.async false in
theorem State.endsAs_complete (u : State) : u.EndsAs u.complete := ⟨0, 0, rfl, Nat.zero_le _, fun _ => rfl⟩

theorem ErrorCode.code_toNat_le (c : ErrorCode) : c.code.toNat ≤ 0x09 := by cases c <;> decide

theorem State.endsAs_raise (f : Failure) (u : State) : u.EndsAs (u.raise f) :=
  ⟨f.code.code, f.info, rfl, f.code.code_toNat_le, fun h => absurd h f.code.code_ne_zero⟩

/-- The end of every command: a completion of a state that has the command's outputs, and the sticky bits as before
unless the command clears them. -/
theorem exec_endsAs {i : Instr} {s t : State} (h : exec i s = .next t) :
    ∃ u : State, u.EndsAs t ∧ u.agenda = s.agenda ∧
      (i ≠ .clear → i ≠ .clrerr → u.err = s.err ∧ u.overrun = s.overrun) := by
  cases i with
  | nop => cases h; exact ⟨s, s.endsAs_complete, rfl, fun _ _ => ⟨rfl, rfl⟩⟩
  | clear => cases h; exact ⟨_, State.endsAs_complete _, rfl, fun hne => absurd rfl hne⟩
  | clrerr => cases h; exact ⟨_, State.endsAs_complete _, rfl, fun _ hne => absurd rfl hne⟩
  | clrfreq => cases h; exact ⟨_, State.endsAs_complete _, rfl, fun _ _ => ⟨rfl, rfl⟩⟩
  | buildTree => cases h; exact ⟨_, State.endsAs_complete _, rfl, fun _ _ => ⟨rfl, rfl⟩⟩
  | genTable =>
    obtain ⟨-, rfl⟩ | ⟨-, rfl⟩ := exec_genTable_cases h
    · exact ⟨_, State.endsAs_raise _ _, rfl, fun _ _ => ⟨rfl, rfl⟩⟩
    · exact ⟨_, State.endsAs_complete _, rfl, fun _ _ => ⟨rfl, rfl⟩⟩
  | encode =>
    obtain ⟨-, rfl⟩ | ⟨-, -, rfl⟩ | ⟨-, -, f, -, rfl⟩ | ⟨-, -, raw, -, rfl⟩ := execEncode_cases h
    · exact ⟨_, State.endsAs_raise _ _, rfl, fun _ _ => ⟨rfl, rfl⟩⟩
    · exact ⟨_, State.endsAs_raise _ _, rfl, fun _ _ => ⟨rfl, rfl⟩⟩
    · exact ⟨_, State.endsAs_raise _ _, rfl, fun _ _ => ⟨rfl, rfl⟩⟩
    · exact ⟨_, State.endsAs_complete _, rfl, fun _ _ => ⟨rfl, rfl⟩⟩
  | decode =>
    obtain ⟨-, rfl⟩ | ⟨-, -, rfl⟩ | ⟨-, -, f, -, rfl⟩ | ⟨-, -, b, n, out, -, rfl⟩ := execDecode_cases h
    · exact ⟨_, State.endsAs_raise _ _, rfl, fun _ _ => ⟨rfl, rfl⟩⟩
    · exact ⟨_, State.endsAs_raise _ _, rfl, fun _ _ => ⟨rfl, rfl⟩⟩
    · exact ⟨_, State.endsAs_raise _ _, rfl, fun _ _ => ⟨rfl, rfl⟩⟩
    · exact ⟨_, State.endsAs_complete _, rfl, fun _ _ => ⟨rfl, rfl⟩⟩

theorem latch_agenda_of_exec {i : Instr} {s t : State} (h : exec i s = .next t) :
    t.cmdLatch = none ∧ t.agenda = s.agenda := by
  obtain ⟨u, ⟨code, info, rfl, -⟩, hagenda, -⟩ := exec_endsAs h
  exact ⟨rfl, hagenda⟩

/-- The core's turn always ends, with the latch empty and the schedule as it was. -/
theorem exists_coreTurn (s : State) :
    ∃ t, coreTurn s = .next t ∧ t.cmdLatch = none ∧ t.agenda = s.agenda := by
  cases hlatch : s.cmdLatch with
  | none => exact ⟨s, coreTurn_of_empty hlatch, hlatch, rfl⟩
  | some v =>
    cases hv : decode v with
    | ok i =>
      obtain ⟨t, ht⟩ := exists_exec i s
      exact ⟨t, (coreTurn_of_decode hlatch hv).trans ht, latch_agenda_of_exec ht⟩
    | error e => exact ⟨_, coreTurn_of_illegal hlatch hv, rfl, rfl⟩

theorem exists_runMove (m : Move) (s : State) : ∃ t, runMove m s = .next t := by
  cases m with
  | core =>
    obtain ⟨t, ht, -⟩ := exists_coreTurn s
    exact ⟨t, ht⟩
  | write a v => exact ⟨_, rfl⟩
  | read a => exact ⟨_, rfl⟩
  | check a v => exact ⟨_, rfl⟩
  | wait => exact ⟨_, rfl⟩
  | reset => exact ⟨_, rfl⟩

/-- Settles O42: a command ends in a completion, and so does the core's turn. -/
theorem everyCommandCompletes : Obligations.EveryCommandCompletes := by
  constructor
  · intro i s
    obtain ⟨t, ht⟩ := exists_exec i s
    exact ⟨t, ht, (latch_agenda_of_exec ht).1⟩
  · intro s
    cases hagenda : s.agenda with
    | nil =>
      obtain ⟨t, ht, -⟩ := exists_coreTurn s
      exact ⟨t, (step_of_idle hagenda).trans ht⟩
    | cons m rest =>
      obtain ⟨t, ht⟩ := exists_runMove m { s with agenda := rest }
      exact ⟨t, (step_of_move hagenda).trans ht⟩

/-- Settles O43: RESULT and ERR_INFO are the completion's, and it takes RESULT into the sticky STATUS.ERR. -/
theorem errorsAreReportedAndSticky : Obligations.ErrorsAreReportedAndSticky := by
  intro i s t h
  have hclears : i = .clear ∨ i = .clrerr → t.err = false ∧ t.overrun = false ∧ t.result = 0 := by
    rintro (rfl | rfl) <;> cases h <;> exact ⟨rfl, rfl, rfl⟩
  obtain ⟨u, ⟨code, info, rfl, hcode, hinfo⟩, -, hsticky⟩ := exec_endsAs h
  refine ⟨hcode, hinfo, fun hclear hclrerr => ?_, hclears, fun hclear hclrerr => (hsticky hclear hclrerr).2⟩
  rw [State.finish_err, State.finish_result, (hsticky hclear hclrerr).1]

/-! ### One writer for each table (R37 to R42) -/

/-- Settles O44, command by command. -/
theorem eachTableHasOneWriter : Obligations.EachTableHasOneWriter := by
  intro i s t h
  cases i with
  | nop => cases h; exact ⟨fun _ => rfl, fun _ => rfl, fun _ => rfl, rfl, fun _ => rfl, fun _ => rfl, rfl, fun _ => rfl⟩
  | clear =>
    cases h
    exact ⟨fun _ => rfl, fun _ => rfl, fun _ => rfl, rfl, fun _ => rfl, fun _ => rfl, rfl, fun hne => absurd rfl hne⟩
  | clrerr =>
    cases h
    exact ⟨fun _ => rfl, fun _ => rfl, fun _ => rfl, rfl, fun _ => rfl, fun _ => rfl, rfl, fun _ => rfl⟩
  | clrfreq =>
    cases h
    exact ⟨fun hne => absurd rfl hne, fun _ => rfl, fun _ => rfl, rfl, fun _ => rfl, fun _ => rfl, rfl, fun _ => rfl⟩
  | buildTree =>
    cases h
    exact ⟨fun _ => rfl, fun hne => absurd rfl hne, fun _ => rfl, rfl, fun _ => rfl, fun _ => rfl, rfl, fun _ => rfl⟩
  | genTable =>
    obtain ⟨-, rfl⟩ | ⟨-, rfl⟩ := exec_genTable_cases h <;>
      exact ⟨fun _ => rfl, fun _ => rfl, fun hne => absurd rfl hne, rfl, fun _ => rfl, fun _ => rfl, rfl, fun _ => rfl⟩
  | encode =>
    obtain ⟨heq, -⟩ := encodeChangesOnlyItsOutputs s t h
    rw [heq]
    exact ⟨fun _ => rfl, fun _ => rfl, fun _ => rfl, rfl, fun hne => absurd rfl hne, fun _ => rfl, rfl, fun _ => rfl⟩
  | decode =>
    obtain ⟨heq, -⟩ := decodeChangesOnlyItsOutputs s t h
    rw [heq]
    exact ⟨fun _ => rfl, fun _ => rfl, fun _ => rfl, rfl, fun _ => rfl, fun hne => absurd rfl hne, rfl, fun _ => rfl⟩

end Sys2Proof.Machine
end

section
/-! PROOFS. The schedule (spec/20_memory.md R75, spec/40_control.md R111): a finite schedule comes to its end, and polls
of STATUS before the core's turn do not change what the core does. -/

namespace Sys2Proof.Machine

theorem run_succ {s t : State} (h : step s = .next t) (k : Nat) : core.run (k + 1) s = core.run k t := by
  have hstep : core.step s = .next t := h
  simp only [Host.Core.run, hstep]

/-! ### The schedule comes to its end (R111) -/

/-- Nothing is latched and no move is scheduled. -/
def State.AtRest (s : State) : Prop := s.cmdLatch = none ∧ s.agenda = []

theorem State.AtRest.run {s : State} (h : s.AtRest) (k : Nat) : core.run k s = .next s := by
  obtain ⟨hlatch, hagenda⟩ := h
  induction k with
  | zero => rfl
  | succ k ih => rw [run_succ ((step_of_idle hagenda).trans (coreTurn_of_empty hlatch)), ih]

theorem agenda_hostWrite (a : Addr) (v : Word) (s : State) : (hostWrite a v s).agenda = s.agenda := by
  obtain ⟨-, hw⟩ | ⟨-, hw⟩ := hostWrite_cases a v s
  · rw [hw]
  rw [hw]
  obtain hm | hm | hm | hm | ⟨i, -, hm⟩ | ⟨i, -, hm⟩ | ⟨k, -, hm⟩ := memWrite_cases a v s <;> rw [hm]

/-- A move takes itself off the schedule, but for a pass of WAIT while BUSY = 1. -/
theorem agenda_of_runMove (m : Move) (s : State) :
    (∃ t, runMove m s = .next t ∧ t.agenda = s.agenda) ∨
    (m = .wait ∧ ∃ t, runMove .wait s = .next t ∧ t.agenda = .core :: .wait :: s.agenda) := by
  cases m with
  | write a v => exact .inl ⟨_, rfl, agenda_hostWrite a v s⟩
  | read a => exact .inl ⟨_, rfl, rfl⟩
  | check a v => exact .inl ⟨_, rfl, rfl⟩
  | wait =>
    obtain ⟨-, hw⟩ | ⟨-, hw⟩ := hostWait_cases s
    · exact .inl ⟨_, rfl, by rw [hw]; rfl⟩
    · exact .inr ⟨rfl, _, rfl, by rw [hw]⟩
  | core =>
    obtain ⟨t, ht, -, hagenda⟩ := exists_coreTurn s
    exact .inl ⟨t, ht, hagenda⟩
  | reset => exact .inl ⟨_, rfl, rfl⟩

/-- A WAIT while BUSY = 1 takes three steps: the poll, the core's turn, and the poll that finds BUSY = 0. -/
theorem run_wait {s : State} {rest : List Move} (h : s.agenda = .core :: .wait :: rest) :
    ∃ t, t.agenda = rest ∧ ∀ k, core.run (k + 2) s = core.run k t := by
  obtain ⟨t, ht, hlatch, hagenda⟩ := exists_coreTurn { s with agenda := .wait :: rest }
  obtain ⟨-, hw⟩ | ⟨hbusy, -⟩ := hostWait_cases { t with agenda := rest }
  · refine ⟨_, congrArg State.agenda hw, fun k => ?_⟩
    rw [run_succ ((step_of_core h).trans ht), run_succ (step_of_move hagenda)]
  · exact absurd hlatch hbusy

theorem exists_run_atRest (rest : List Move) {s : State} (hagenda : s.agenda = rest) {k : Nat}
    (hk : 3 * rest.length + 1 ≤ k) : ∃ t, core.run k s = .next t ∧ t.AtRest := by
  induction rest generalizing s k with
  | nil =>
    obtain ⟨k, rfl⟩ : ∃ j, k = j + 1 := ⟨k - 1, by omega⟩
    obtain ⟨t, ht, hlatch, hkeep⟩ := exists_coreTurn s
    have hrest : t.AtRest := ⟨hlatch, hkeep.trans hagenda⟩
    exact ⟨t, by rw [run_succ ((step_of_idle hagenda).trans ht), hrest.run], hrest⟩
  | cons m rest ih =>
    rw [List.length_cons] at hk
    obtain ⟨k, rfl⟩ : ∃ j, k = j + 3 := ⟨k - 3, by omega⟩
    obtain ⟨t, ht, hkeep⟩ | ⟨rfl, t, ht, hkeep⟩ := agenda_of_runMove m { s with agenda := rest }
    · rw [run_succ ((step_of_move hagenda).trans ht)]
      exact ih hkeep (by omega)
    · obtain ⟨u, hu, hrun⟩ := run_wait hkeep
      rw [run_succ ((step_of_move hagenda).trans ht), hrun]
      exact ih hu (by omega)

/-- Settles O45: a move takes at most three steps, and the core has the turn when none is left. -/
theorem latchedCommandFinishes : Obligations.LatchedCommandFinishes := fun s =>
  exists_run_atRest s.agenda rfl (Nat.le_refl _)

/-! ### The host's log (R68, notes/assumptions/8.md) -/

/-- The same machine, with another log of what the host has read. -/
def State.withBusLog (log : List Word) (s : State) : State := { s with busLog := log }

theorem encodeScan_withBusLog (s : State) (log : List Word) (n i : Nat) (raw : Bits) :
    encodeScan (s.withBusLog log) n i raw = encodeScan s n i raw := by
  induction n generalizing i raw with
  | zero => rfl
  | succ n ih => simp only [encodeScan, ih]; rfl

theorem decodeArtifact_withBusLog (s : State) (log : List Word) :
    decodeArtifact (s.withBusLog log) = decodeArtifact s := by
  have hsame : s.SameDecoder (s.withBusLog log) := ⟨rfl, rfl, rfl, rfl, rfl⟩
  have hscan : decodeScan (s.withBusLog log) = decodeScan s := by
    funext p j cur out
    exact hsame.decodeScan_eq p j cur out
  rw [decodeArtifact, hscan]
  rfl

theorem genWalk_withBusLog (s : State) (log : List Word) (fuel : Nat) (stack : List (NodeIdx × Bits))
    (t : Table Bits) : genWalk (s.withBusLog log) fuel stack t = genWalk s fuel stack t := by
  induction fuel generalizing stack t with
  | zero => rfl
  | succ fuel ih =>
    match stack with
    | [] => rfl
    | (n, p) :: stack =>
      have hnodeAt : (s.withBusLog log).nodeAt n.toNat = s.nodeAt n.toNat := rfl
      cases hnode : s.nodeAt n.toNat with
      | leaf w sym => rw [genWalk_leaf hnode, genWalk_leaf (hnodeAt.trans hnode), ih]
      | internal w l r => rw [genWalk_internal hnode, genWalk_internal (hnodeAt.trans hnode), ih]

theorem generatedCode_withBusLog (s : State) (log : List Word) :
    (s.withBusLog log).generatedCode = s.generatedCode := by
  have hwalk : genWalk (s.withBusLog log) = genWalk s := by
    funext fuel stack t
    exact genWalk_withBusLog s log fuel stack t
  rw [State.generatedCode, hwalk]
  rfl

/-- No command reads or writes the host's log. -/
theorem exec_withBusLog {i : Instr} {s t : State} (h : exec i s = .next t) (log : List Word) :
    exec i (s.withBusLog log) = .next (t.withBusLog log) ∧ t.busLog = s.busLog := by
  cases i with
  | nop => cases h; exact ⟨rfl, rfl⟩
  | clear => cases h; exact ⟨rfl, rfl⟩
  | clrerr => cases h; exact ⟨rfl, rfl⟩
  | clrfreq => cases h; exact ⟨rfl, rfl⟩
  | buildTree =>
    have hleaves : (s.withBusLog log).leafNodes = s.leafNodes := rfl
    cases h
    rw [exec_buildTree, hleaves]
    exact ⟨rfl, rfl⟩
  | genTable =>
    have hcode := generatedCode_withBusLog s log
    obtain ⟨htree, rfl⟩ | ⟨htree, rfl⟩ := exec_genTable_cases h
    · exact ⟨exec_genTable_of_no_tree htree, rfl⟩
    · exact ⟨(exec_genTable_of_tree (s := s.withBusLog log) htree).trans (by rw [hcode]; rfl), rfl⟩
  | encode =>
    have hscan_eq := encodeScan_withBusLog s log
    obtain ⟨htable, rfl⟩ | ⟨htable, hlen, rfl⟩ | ⟨htable, hlen, f, hscan, rfl⟩ | ⟨htable, hlen, raw, hscan, rfl⟩ :=
      execEncode_cases h
    · exact ⟨exec_encode_of_no_table htable, rfl⟩
    · exact ⟨exec_encode_of_long htable hlen, rfl⟩
    · exact ⟨exec_encode_of_error (s := s.withBusLog log) htable hlen ((hscan_eq _ _ _).trans hscan), rfl⟩
    · exact ⟨exec_encode_of_ok (s := s.withBusLog log) htable hlen ((hscan_eq _ _ _).trans hscan), rfl⟩
  | decode =>
    have hart_eq := decodeArtifact_withBusLog s log
    obtain ⟨htable, rfl⟩ | ⟨htable, hlen, rfl⟩ | ⟨htable, hlen, f, hart, rfl⟩ | ⟨htable, hlen, b, n, out, hart, rfl⟩ :=
      execDecode_cases h
    · exact ⟨exec_decode_of_no_table htable, rfl⟩
    · exact ⟨exec_decode_of_long htable hlen, rfl⟩
    · exact ⟨exec_decode_of_error htable hlen (hart_eq.trans hart), rfl⟩
    · exact ⟨exec_decode_of_ok htable hlen (hart_eq.trans hart), rfl⟩

theorem coreTurn_withBusLog {s t : State} (h : coreTurn s = .next t) (log : List Word) :
    coreTurn (s.withBusLog log) = .next (t.withBusLog log) ∧ t.busLog = s.busLog := by
  obtain ⟨hlatch, rfl⟩ | ⟨v, i, hlatch, hv, hexec⟩ | ⟨v, e, hlatch, hv, rfl⟩ := coreTurn_cases h
  · exact ⟨coreTurn_of_empty hlatch, rfl⟩
  · obtain ⟨hlog, hkeep⟩ := exec_withBusLog hexec log
    exact ⟨(coreTurn_of_decode (s := s.withBusLog log) hlatch hv).trans hlog, hkeep⟩
  · refine ⟨(coreTurn_of_illegal (s := s.withBusLog log) hlatch hv).trans ?_, rfl⟩
    rw [State.raise_eq]
    rfl

/-! ### Polls of STATUS (R68, R75) -/

set_option Elab.async false in
theorem target_statusAddr (P : Params) : target P statusAddr = .reg .status := rfl

/-- A read of STATUS, which is defined whether BUSY is 0 or 1, only notes the answer. -/
theorem hostRead_statusAddr (s : State) : hostRead statusAddr s = s.withBusLog (s.statusWord :: s.busLog) := by
  have hreadable : readableWhileBusy (target s.params statusAddr) = true := rfl
  have hanswer : s.busAnswer statusAddr = s.statusWord := by
    rw [busAnswer_of_readable hreadable, memRead_reg (target_statusAddr _)]
    rfl
  rw [hostRead, hanswer, hreadable, Bool.not_true, Bool.and_false]
  rfl

/-- Any number of polls leaves the schedule behind them and the host's log before it. -/
theorem run_polls (n : Nat) {s : State} {rest : List Move}
    (h : s.agenda = List.replicate n (Move.read statusAddr) ++ rest) (k : Nat) :
    core.run (n + k) s =
      core.run k { s with agenda := rest, busLog := List.replicate n s.statusWord ++ s.busLog } := by
  induction n generalizing s with
  | zero =>
    obtain rfl : s.agenda = rest := h
    rw [Nat.zero_add]
    rfl
  | succ n ih =>
    have hread := (step_of_move h).trans (congrArg Host.Outcome.next (hostRead_statusAddr _))
    have hlog : List.replicate n s.statusWord ++ s.statusWord :: s.busLog =
        List.replicate (n + 1) s.statusWord ++ s.busLog := by
      rw [List.replicate_succ', List.append_assoc]
      rfl
    rw [Nat.succ_add, run_succ hread]
    exact (ih rfl).trans (congrArg (fun log => core.run k { s with agenda := rest, busLog := log }) hlog)

/-- Settles O57: the polls only note STATUS in the host's log, and the core's turn does not look at the log. -/
theorem statusPollsDoNotMatter : Obligations.StatusPollsDoNotMatter := by
  intro n s rest _ hagenda
  obtain ⟨t, ht, -⟩ := exists_coreTurn { s with agenda := rest }
  obtain ⟨hturn, hlog⟩ := coreTurn_withBusLog ht (List.replicate n s.statusWord ++ s.busLog)
  refine ⟨t, (step_of_core rfl).trans ht, ?_, hlog⟩
  rw [run_polls n hagenda 1]
  exact run_succ ((step_of_core rfl).trans hturn) 0

end Sys2Proof.Machine
end

section
/-! PROOFS. What the host sees (spec/20_memory.md R61 to R72, spec/10_state.md R24, R38, R39): the words of the
registers and of the table windows as numbers, and the moves of the host and of the reset input as steps. -/

namespace Sys2Proof.Machine

/-! ### Words built from fields -/

/-- The upper field counts in units of the lower field's range. -/
theorem toNat_append_eq_add {m n : Nat} (x : BitVec m) (y : BitVec n) :
    (x ++ y).toNat = x.toNat * 2 ^ n + y.toNat := by
  rw [BitVec.toNat_append, ← Nat.shiftLeft_add_eq_or_of_lt y.isLt, Nat.shiftLeft_eq]

theorem TreeState.toNat_bits (t : TreeState) :
    t.bits.toNat = if t = .built then 2 else if t = .empty then 1 else 0 := by
  cases t <;> rfl

theorem TableState.toNat_bits (t : TableState) :
    t.bits.toNat = if t = .ready then 2 else if t = .empty then 1 else 0 := by
  cases t <;> rfl

/-- The weights of STATUS's fields, from the field at the top down (R24). -/
theorem status_fields_sum (table tree overrun err busy : Nat) :
    (((((0 * 4 + table) * 4 + tree) * 2 + 0) * 2 + overrun) * 2 + err) * 2 + busy =
      busy + 2 * err + 4 * overrun + 16 * tree + 64 * table := by
  omega

/-- Settles O47, field by field. -/
theorem statusFields : Obligations.StatusFields := by
  intro s
  rw [← TreeState.toNat_bits, ← TableState.toNat_bits]
  simp only [State.statusWord, State.busy, toNat_append_eq_add, BitVec.ofNat_eq_ofNat, BitVec.toNat_zero,
    BitVec.toNat_ofBool]
  exact status_fields_sum _ _ _ _ _

/-- PARAM0's two fields are wide enough for the parameters (R4, R23). -/
theorem param0Value_eq {P : Params} (hP : P.legal = true) :
    param0Value P = BitVec.ofNat 32 (P.symW + 256 * P.freqW) := by
  have hsym : P.symW < 2 ^ 4 := Nat.lt_of_le_of_lt (Params.symW_le_of_legal hP) (by decide)
  have hfreq : P.freqW < 2 ^ 5 := by
    simp only [Params.legal, Params.symWOk, Params.freqWOk, Bool.and_eq_true, decide_eq_true_eq] at hP
    omega
  apply BitVec.eq_of_toNat_eq
  simp only [param0Value, toNat_append_eq_add, BitVec.ofNat_eq_ofNat, BitVec.toNat_ofNat]
  rw [Nat.mod_eq_of_lt hsym, Nat.mod_eq_of_lt hfreq, Nat.mod_eq_of_lt (by omega)]
  omega

/-! ### The registers (R63, R66) -/

theorem target_registerOffset (P : Params) (r : Reg) : target P (BitVec.ofNat 22 (registerOffset r)) = .reg r := by
  cases r <;> rfl

set_option Elab.async false in
theorem memRead_registerOffset (s : State) (r : Reg) : s.memRead (BitVec.ofNat 22 (registerOffset r)) = s.readReg r :=
  memRead_reg (target_registerOffset s.params r)

/-- Settles O46, register by register. -/
theorem registerReads : Obligations.RegisterReads := by
  intro s hP
  have hread := memRead_registerOffset s
  refine ⟨hread .id, (hread .param0).trans (param0Value_eq hP), hread .paramTextCap, hread .paramArtCap,
    hread .paramDtextCap, hread .cmd, hread .status, ?_, hread .errInfo, hread .textLen, hread .artLen, hread .dtextLen,
    hread .rawBits, ?_, ?_, ?_, ?_⟩
  · exact (congrArg BitVec.toNat (hread .result)).trans (BitVec.toNat_setWidth_of_le (by decide))
  · exact (congrArg BitVec.toNat (hread .pad)).trans (BitVec.toNat_setWidth_of_le (by decide))
  · exact (congrArg BitVec.toNat (hread .leaves)).trans (BitVec.toNat_setWidth_of_le (by decide))
  · exact (congrArg BitVec.toNat (hread .nodeCount)).trans (BitVec.toNat_setWidth_of_le (by decide))
  · exact (congrArg BitVec.toNat (hread .root)).trans (BitVec.toNat_setWidth_of_le (by decide))

/-! ### The table windows (R38, R39, R42) -/

section Windows

variable {s : State} {a : Addr}

theorem memRead_node {n w : Nat} (h : target s.params a = .node n w) :
    s.memRead a = if s.treeState = .built ∧ n < s.nodeCount.toNat then nodeWord (s.nodeAt n) w else 0 := by
  rw [State.memRead, h]

theorem memRead_code {i k : Nat} (h : target s.params a = .code i k) :
    s.memRead a = if s.tableState ≠ .none then codeWord (s.codeAt i) k else 0 := by
  rw [State.memRead, h]

theorem memRead_dtext {i : Nat} (h : target s.params a = .dtext i) :
    s.memRead a = if i < s.dtextLen.toNat then (s.dtextAt i).setWidth 32 else 0 := by
  rw [State.memRead, h]

end Windows

/-- The four words of a NODE entry (R38). -/
theorem toNat_nodeWord (s : State) (n w : Nat) : (nodeWord (s.nodeAt n) w).toNat =
    if w = 0 then s.weightAt n
    else if w = 1 then 2 ^ 31 * (s.isLeafAt n).toNat + s.symbolAt n
    else if w = 2 then s.leftAt n
    else if w = 3 then s.rightAt n else 0 := by
  match w with
  | 0 => rfl
  | 1 =>
    refine ((toNat_append_eq_add _ _).trans (congrArg (· * 2 ^ 10 + _) (toNat_append_eq_add _ _))).trans ?_
    rw [if_neg Nat.one_ne_zero, if_pos rfl, BitVec.ofNat_eq_ofNat, BitVec.toNat_zero, BitVec.toNat_ofBool,
      State.isLeafAt, State.symbolAt]
    omega
  | 2 => exact BitVec.toNat_setWidth_of_le (by decide)
  | 3 => exact BitVec.toNat_setWidth_of_le (by decide)
  | w + 4 => rfl

theorem bitsToNat_concat (S : Bits) (b : Bool) : bitsToNat (S ++ [b]) = 2 * bitsToNat S + b.toNat := by
  rw [bitsToNat, List.foldl_append]
  rfl

/-- The first bit is the most significant one (R8). -/
theorem testBit_bitsToNat (S : Bits) {j : Nat} (hj : j < S.length) :
    (bitsToNat S).testBit (S.length - 1 - j) = S.getD j false := by
  induction S using List.reverseRecOn with
  | nil => cases hj
  | append_singleton S b ih =>
    rw [List.length_append, List.length_singleton] at hj ⊢
    rw [bitsToNat_concat]
    obtain hlast | hlt := Nat.eq_or_lt_of_le (Nat.le_of_lt_succ hj)
    · subst hlast
      rw [List.getD_append_right _ _ _ _ (Nat.le_refl _), Nat.sub_self, show S.length + 1 - 1 - S.length = 0 by omega,
        Nat.testBit_zero, Nat.mul_add_mod]
      cases b <;> rfl
    · rw [List.getD_append _ _ _ _ hlt, ← ih hlt, show S.length + 1 - 1 - j = (S.length - 1 - j) + 1 by omega,
        Nat.testBit_succ]
      congr 1
      have := b.toNat_le
      omega

/-- Code bit `32(k-1)+j` is bit `31-j` of word `k` (R39). -/
theorem getLsbD_codeWord (c : Bits) {k j : Nat} (hk : 1 ≤ k) (hk32 : k ≤ 32) (hj : j < 32) :
    (codeWord c k).getLsbD (31 - j) = c.getD (32 * (k - 1) + j) false := by
  have hlen : ((List.range 32).map fun j => c.getD (32 * (k - 1) + j) false).length = 32 := by
    rw [List.length_map, List.length_range]
  have hbit := testBit_bitsToNat ((List.range 32).map fun j => c.getD (32 * (k - 1) + j) false) (hlen.symm ▸ hj)
  rw [hlen] at hbit
  rw [codeWord, if_neg (by omega), if_pos hk32, BitVec.getLsbD_ofNat, hbit, decide_eq_true (by omega), Bool.true_and,
    List.getD_eq_getElem _ _ (hlen.symm ▸ hj), List.getElem_map, List.getElem_range]

/-- Settles O55, window by window. -/
theorem tableWindowReads : Obligations.TableWindowReads := by
  intro s a
  refine ⟨fun n w h => ?node, fun i k h => ?code, fun i h => ?dtext⟩
  case node =>
    rw [memRead_node h]
    constructor
    · exact fun hinvalid => if_neg fun ⟨hbuilt, hlt⟩ => hinvalid.elim (· hbuilt) hlt.not_ge
    · intro hbuilt hlt
      rw [if_pos ⟨hbuilt, hlt⟩, toNat_nodeWord]
  case code =>
    rw [memRead_code h]
    refine ⟨fun hnone => if_neg (not_not_intro hnone), fun htable => ?_⟩
    rw [if_pos htable]
    refine ⟨?_, fun hk hk32 j hj => getLsbD_codeWord _ hk hk32 hj, fun hk => ?_⟩
    · rintro rfl
      rw [codeWord, if_pos rfl, BitVec.toNat_setWidth_of_le (by decide), BitVec.toNat_ofNat, State.clen]
    · rw [codeWord, if_neg (by omega), if_neg (by omega)]
  case dtext =>
    rw [memRead_dtext h]
    refine ⟨fun hge => if_neg hge.not_gt, fun hlt => ?_⟩
    rw [if_pos hlt]
    exact BitVec.toNat_setWidth_of_le (by decide)

/-! ### Addresses and reads (R61, R66, R68) -/

/-- Settles O49: an access looks at its address through the target only, and the target at the word address. -/
theorem lowAddressBitsIgnored : Obligations.LowAddressBitsIgnored := by
  intro s a b v hword
  have htarget : target s.params a = target s.params b := by rw [target, target, wordAddr, wordAddr, hword]
  have hread : s.memRead a = s.memRead b := by rw [State.memRead, State.memRead, htarget]
  have hwrite : s.memWrite a v = s.memWrite b v := by rw [State.memWrite, State.memWrite, htarget]
  constructor
  · rw [hostRead, hostRead, State.busAnswer, State.busAnswer, hread, htarget]
  · rw [hostWrite, hostWrite, hwrite]

/-- Settles O53: only an answer that is free while BUSY = 1 uses up a draw. -/
theorem hostReadChangesNothing : Obligations.HostReadChangesNothing := by
  refine fun s a => ⟨s.busAnswer a, _, rfl, fun hidle => ?_⟩
  have hbusy : s.busy = false := State.busy_eq_false.2 hidle
  rw [State.busAnswer, hbusy, Bool.false_and]
  exact ⟨rfl, rfl⟩

/-! ### A CMD write and the reset input as steps (R71, R260) -/

theorem memWrite_cmd {s : State} {a : Addr} (v : Word) (h : target s.params a = .reg .cmd) :
    s.memWrite a v = { s with cmdLatch := some v } := by
  rw [State.memWrite, h]

set_option Elab.async false in
theorem hostWrite_cmdAddr (v : Word) (s : State) (h : s.cmdLatch = none) :
    hostWrite cmdAddr v s = { s with cmdLatch := some v } :=
  (hostWrite_of_idle v h).trans (memWrite_cmd v (target_registerOffset s.params .cmd))

/-- BUSY is bit 0 of STATUS (R24). -/
theorem getLsbD_zero_statusWord (s : State) : s.statusWord.getLsbD 0 = s.busy := by
  rw [State.statusWord, BitVec.getLsbD_append]
  exact BitVec.getLsbD_ofBool s.busy 0

/-- Settles O54: the write goes to CMD, or is dropped. -/
theorem cmdWriteLatches : Obligations.CmdWriteLatches := by
  intro s v rest hagenda
  refine ⟨fun hidle => ⟨?_, getLsbD_zero_statusWord _⟩, fun w hbusy => ?_⟩
  · have hwrite := hostWrite_cmdAddr v { s with agenda := rest } hidle
    exact (step_of_move hagenda).trans (congrArg Host.Outcome.next hwrite)
  · exact (step_of_move hagenda).trans (congrArg Host.Outcome.next (hostWrite_of_busy v hbusy))

set_option Elab.async false in
theorem statusWord_hardwareReset (s : State) : (hardwareReset s).statusWord = 0 :=
  BitVec.eq_of_toNat_eq (statusFields (hardwareReset s))

/-- Settles O56: the reset move writes every register, whatever the state was. -/
theorem resetPutsRegistersAtResetValues : Obligations.ResetPutsRegistersAtResetValues := fun _ _ hagenda =>
  ⟨_, step_of_move hagenda, rfl, statusWord_hardwareReset _, rfl, rfl, rfl, rfl, rfl, rfl, rfl, rfl, rfl, rfl, rfl, rfl,
    rfl, rfl, rfl⟩

end Sys2Proof.Machine
end
